-- ==== Sys2Proof/Word.lean ====
section
/-! DEFINITION. The words the engine computes with (00_scope.md rules R9, R13): each is a bit vector of the width the
spec gives, so that its arithmetic wraps at that width and its bits are numbered from 0, the least significant. -/

namespace Sys2Proof

/-- One byte: a one-byte register-map field, a payload byte, an output mask (R9, R86). -/
abbrev Byte := BitVec 8

/-- A channel value as the converter resolves it: `ADC_BITS` = 12 bits (R7). -/
abbrev Sample := BitVec 12

/-- An AnalogBuffer cell, a converter word, an element of `ANALOG`: `CELL_BITS` = 16 bits (R7, R36, R43). -/
abbrev Cell := BitVec 16

/-- A parameter word of `PT_START` or `PWM_CFG` (R34, R37). The count word is read as signed (R85, 90_conflicts.md C7). -/
abbrev Word := BitVec 32

/-- A device time or an alarm target: `TIME_BITS` = 64 bits of microseconds (R21); also, read as signed, a callback's
computed next delay (R13 (b), R23). -/
abbrev Time := BitVec 64

end Sys2Proof
end

