-- ==== Sys2Proof/Config.lean ====
section
/-! DEFINITION. What is fixed for a run (00_scope.md section 4, rule R7): the quantities the source gives, as plain
numbers, and the quantities it leaves OPEN, as the record `Params`. -/

namespace Sys2Proof.Config

/-- Digital output bits in a register (`N_DO`, R7). -/
def nDo : Nat := 8
/-- Pulse-train slots (`N_SLOTS`, R7, R22). -/
def nSlots : Nat := 256
/-- Analog channels (`N_CH`, R7). -/
def nCh : Nat := 3
/-- Capacity of the hand-off queue (`QUEUE_CAP`, R7, R46). -/
def queueCap : Nat := 2
/-- Ratio of the drain timer to sampling (`DRAIN_RATIO`, R7); informative, no rule computes with it (R312). -/
def drainRatio : Nat := 20

/-- The OPEN parameters of rule R7. They are not state (R20): no step writes them. They stand in `State` as one field
so that a statement about every state is a statement about every device (notes/assumptions/3.md, DESIGN CHOICE). -/
structure Params where
  /-- `N_DO_WIRED`: output bits wired to a physical pin. -/
  nDoWired : Nat
  /-- `DO_BASE_PIN`: physical pin number of output bit 0. -/
  doBasePin : Nat
  /-- `N_DI`: digital input bits reported in `DI_STATE`. -/
  nDi : Nat
  /-- `REG_BASE`: register number of the field with index 0. -/
  regBase : Nat
  /-- `DRAIN_PERIOD_US`: period of the drain timer. -/
  drainPeriodUs : Time
  /-- `ADC_CONV_PERIOD_US`: time of one conversion; no rule's result depends on it. -/
  adcConvPeriodUs : Nat
  /-- `ADC_FIFO_DEPTH`: depth of the converter's result queue. -/
  adcFifoDepth : Nat
  /-- `JITTER_MAX_US`: greatest lateness of an alarm callback; `none` is infinity. -/
  jitterMaxUs : Option Nat
  /-- `HAS_PWM`: the variant has the PWM fields. -/
  hasPwm : Bool
  /-- `PWM_CLK_HZ`: counter clock of the PWM generator. -/
  pwmClkHz : Nat
  /-- `PWM_TOP_MAX`: largest period count the PWM counter holds. -/
  pwmTopMax : Nat
  deriving DecidableEq, Repr

/-- The constraint column of rule R7. -/
def Params.wf (c : Params) : Bool :=
  decide (1 ≤ c.nDoWired) && decide (c.nDoWired ≤ 8) && decide (1 ≤ c.nDi) && decide (c.nDi ≤ 8) &&
  decide (0 < c.drainPeriodUs) && decide (1 ≤ c.adcFifoDepth) && decide (0 < c.pwmClkHz) && decide (1 ≤ c.pwmTopMax)

/-! The device `State.reset` is a reset of. Each number below is an opaque constant: nothing in Lean can compute it. -/

/-- Free value: `N_DO_WIRED` less one, taken modulo 8. -/
opaque nDoWiredRaw : Nat
/-- Free value: `DO_BASE_PIN`. -/
opaque doBasePinRaw : Nat
/-- Free value: `N_DI` less one, taken modulo 8. -/
opaque nDiRaw : Nat
/-- Free value: `REG_BASE`. -/
opaque regBaseRaw : Nat
/-- Free value: `DRAIN_PERIOD_US`, with 0 read as 1. -/
opaque drainPeriodRaw : Time
/-- Free value: `ADC_CONV_PERIOD_US`. -/
opaque adcConvPeriodRaw : Nat
/-- Free value: `ADC_FIFO_DEPTH` less one. -/
opaque adcFifoDepthRaw : Nat
/-- Free value: `JITTER_MAX_US`. -/
opaque jitterMaxRaw : Option Nat
/-- Free value: `PWM_CLK_HZ` less one. -/
opaque pwmClkRaw : Nat
/-- Free value: `PWM_TOP_MAX` less one. -/
opaque pwmTopMaxRaw : Nat

/-- The parameters of the device that `State.reset` describes: every numeric one an unconstrained free value brought
into R7's range, and `HAS_PWM` true, so that every row of the operation table exists there (notes/assumptions/3.md,
DESIGN CHOICE). -/
def params : Params where
  nDoWired := nDoWiredRaw % 8 + 1
  doBasePin := doBasePinRaw
  nDi := nDiRaw % 8 + 1
  regBase := regBaseRaw
  drainPeriodUs := if drainPeriodRaw = 0 then 1 else drainPeriodRaw
  adcConvPeriodUs := adcConvPeriodRaw
  adcFifoDepth := adcFifoDepthRaw + 1
  jitterMaxUs := jitterMaxRaw
  hasPwm := true
  pwmClkHz := pwmClkRaw + 1
  pwmTopMax := pwmTopMaxRaw + 1

end Sys2Proof.Config
end

