-- ==== Sys2Proof/Syntax.lean ====
section
/-! DEFINITION. The names of the register map (10_state.md section 6) and the operations of the engine
(30_encoding.md rule R95): the 36 rows of spec/opcode_table.json, one constructor each, in the table's order. -/

namespace Sys2Proof

/-- The ten fields of the register map, in index order +0 to +9 (R28). -/
inductive Field where
  | diState | doSet | doClear | doToggle | doState | ptStart | ptStop | analog | pwmCfg | pwmStop
  deriving DecidableEq, Repr

/-- The two transfer channels (R44). -/
inductive Channel where
  | a | b
  deriving DecidableEq, Repr

/-- The content of `PT_START`: four 32-bit words (R34). -/
structure PtStart where
  mask : Word
  widthUs : Word
  periodUs : Word
  /-- Read as a signed word by the handler (R85). -/
  count : Word
  deriving DecidableEq, Repr

/-- The content of `ANALOG`: three 16-bit elements (R36). -/
structure Analog where
  ch0 : Cell
  ch1 : Cell
  ch2 : Cell
  deriving DecidableEq, Repr

/-- The content of `PWM_CFG`: two 32-bit words (R37). -/
structure PwmCfg where
  frequencyHz : Word
  dutyPercent : Word
  deriving DecidableEq, Repr

/-- An operation (R8, R95). The operands are those of rules R81, R83 and R89; the operand of `adcConvert` is the
environment's draw of rule R152, all 16 bits of it. -/
inductive Instr where
  -- class 0, reads (43_digital_io.md R207 to R216)
  | rdDiState
  | rdDoSet
  | rdDoClear
  | rdDoToggle
  | rdDoState
  | rdPtStart
  | rdPtStop
  | rdAnalog
  | rdPwmCfg
  | rdPwmStop
  -- class 0, writes
  | wrDiState (v : Byte)
  | wrDoSet (v : Byte)
  | wrDoClear (v : Byte)
  | wrDoToggle (v : Byte)
  | wrDoState (v : Byte)
  | wrPtStart (p : PtStart)
  | wrPtStop (v : Byte)
  | wrAnalog (v : Analog)
  | wrPwmCfg (p : PwmCfg)
  | wrPwmStop (v : Byte)
  -- class 1, lifecycle hooks
  | reset
  | update
  | setEventsEnabled (b : Bool)
  | configure
  -- class 2, autonomous steps
  | tickTime (delta : Time)
  | ptFire (m : Byte)
  | ptEnd (m : Byte)
  | adcConvert (w : Cell)
  | dmaAXfer
  | dmaBXfer
  | dmaAbortLand (x : Channel)
  | drainFire
  | drainRead
  | drainPush
  | diChange (v : Byte)
  | diEdge
  deriving DecidableEq, Repr

/-- Why a sequence of bytes is no operation of the engine (R96, R98). -/
inductive DecodeError where
  /-- Fewer than the two bytes that hold a selector. -/
  | tooShort
  /-- Bits 15 to 12 of the selector's two bytes are not zero: a selector has 12 bits (R84). -/
  | selectorBits
  /-- A selector that rule R95 does not list (R96). -/
  | unassigned (sel : BitVec 12)
  /-- Not exactly as many operand bytes as the operation has (R58, R98). -/
  | operandLength
  /-- An operand byte that names no boolean or no channel (R89). -/
  | operandValue
  deriving DecidableEq, Repr

/-- One turn of the schedule (R12, R64): which agent takes the next step. `op` is the arrival of an operation, as
bytes: a host access, a hook or a step of an autonomous agent. `main` is the next numbered sub-step of the
operation the main loop is inside (R11). -/
inductive Turn where
  | op (frame : List Byte)
  | main
  deriving DecidableEq, Repr

end Sys2Proof
end

