-- ==== Sys2Proof/WellFormed.lean ====
section
/-! DEFINITION. Which operation terms are operations of a given device: the operand constraints of rule R89 and the
variant rule R99. The remaining operands have no illegal value (R85, R86). -/

namespace Sys2Proof

/-- `v` has no bit set at or above `N_DI` (R217). Each bit is looked at first, so that the zero byte passes whatever
`N_DI` is. -/
def inputBitsExist (nDi : Nat) (v : Byte) : Bool :=
  (List.range 8).all fun i => !v.getLsbD i || decide (i < nDi)

/-- The operation is one of the PWM operations (R99). -/
def Instr.isPwm : Instr → Bool
  | .rdPwmCfg | .rdPwmStop | .wrPwmCfg _ | .wrPwmStop _ => true
  | .rdDiState | .rdDoSet | .rdDoClear | .rdDoToggle | .rdDoState | .rdPtStart | .rdPtStop | .rdAnalog
  | .wrDiState _ | .wrDoSet _ | .wrDoClear _ | .wrDoToggle _ | .wrDoState _ | .wrPtStart _ | .wrPtStop _ | .wrAnalog _
  | .reset | .update | .setEventsEnabled _ | .configure
  | .tickTime _ | .ptFire _ | .ptEnd _ | .adcConvert _ | .dmaAXfer | .dmaBXfer | .dmaAbortLand _
  | .drainFire | .drainRead | .drainPush | .diChange _ | .diEdge => false

/-- The operands are ones the operation may have: `delta >= 1` (R258), no input that does not exist (R217), and no
operation on a field the variant does not have (R99). -/
def Instr.wellFormed (c : Config.Params) (i : Instr) : Bool :=
  (!i.isPwm || c.hasPwm) &&
  match i with
  | .tickTime delta => delta != 0
  | .diChange v => inputBitsExist c.nDi v
  | .rdDiState | .rdDoSet | .rdDoClear | .rdDoToggle | .rdDoState | .rdPtStart | .rdPtStop | .rdAnalog
  | .rdPwmCfg | .rdPwmStop
  | .wrDiState _ | .wrDoSet _ | .wrDoClear _ | .wrDoToggle _ | .wrDoState _ | .wrPtStart _ | .wrPtStop _ | .wrAnalog _
  | .wrPwmCfg _ | .wrPwmStop _ | .reset | .update | .setEventsEnabled _ | .configure
  | .ptFire _ | .ptEnd _ | .adcConvert _ | .dmaAXfer | .dmaBXfer | .dmaAbortLand _
  | .drainFire | .drainRead | .drainPush | .diEdge => true

end Sys2Proof
end

