-- ==== Sys2Proof/Decode.lean ====
section
/-! DEFINITION. From bytes to operations and back (30_encoding.md sections 1, 2 and 4). A frame is the selector of rule
R84 in two bytes, low byte first, bits 15 to 12 zero, followed by the operand bytes and nothing else (the layout
95_test_vectors.md gives each line; notes/assumptions/4.md, DESIGN CHOICE). Multi-byte operands are little-endian
(R55, R83). -/

namespace Sys2Proof

/-! ## Bytes -/

/-- A 16-bit element from its two bytes, lowest first (R55). -/
def u16Le (b0 b1 : Byte) : Cell := b1 ++ b0

/-- A 32-bit word from its four bytes, lowest first (R55). -/
def u32Le (b0 b1 b2 b3 : Byte) : Word := b3 ++ b2 ++ b1 ++ b0

/-- A 64-bit number from its eight bytes, lowest first (R55). -/
def u64Le (b0 b1 b2 b3 b4 b5 b6 b7 : Byte) : Time := b7 ++ b6 ++ b5 ++ b4 ++ b3 ++ b2 ++ b1 ++ b0

/-- Byte `i` of a bit vector: bits `8i+7` to `8i`. -/
def byteOf {w : Nat} (x : BitVec w) (i : Nat) : Byte := x.extractLsb' (8 * i) 8

/-- The two bytes of a 16-bit element, lowest first. -/
def bytes2 (x : Cell) : List Byte := [byteOf x 0, byteOf x 1]

/-- The four bytes of a word, lowest first. -/
def bytes4 (x : Word) : List Byte := [byteOf x 0, byteOf x 1, byteOf x 2, byteOf x 3]

/-- The eight bytes of a 64-bit number, lowest first. -/
def bytes8 (x : Time) : List Byte :=
  [byteOf x 0, byteOf x 1, byteOf x 2, byteOf x 3, byteOf x 4, byteOf x 5, byteOf x 6, byteOf x 7]

/-! ## Selectors (R84) -/

/-- `class[11:9]`. -/
def selClass (sel : BitVec 12) : Nat := (sel.extractLsb' 9 3).toNat

/-- `acc[8]`: true for a register write. -/
def selAcc (sel : BitVec 12) : Bool := sel.getLsbD 8

/-- `idx[7:0]`. -/
def selIdx (sel : BitVec 12) : Nat := (sel.extractLsb' 0 8).toNat

/-- The selector's two bytes: the low one, then the high one with its upper half zero. -/
def selBytes (sel : BitVec 12) : List Byte := [sel.setWidth 8, (sel >>> 8).setWidth 8]

/-- How many operand bytes follow a selector: `W(k)` for a write of field `k` (R51, R81), the operand of R89 for hooks
and steps, none for reads. Unassigned selectors have none. -/
def operandLength (sel : BitVec 12) : Nat :=
  match selClass sel, selAcc sel with
  | 0, true =>
    match selIdx sel with
    | 0 | 1 | 2 | 3 | 4 | 6 | 9 => 1
    | 5 => 16
    | 7 => 6
    | 8 => 8
    | _ => 0
  | 1, false =>
    match selIdx sel with
    | 2 => 1
    | _ => 0
  | 2, false =>
    match selIdx sel with
    | 0 => 8
    | 1 | 2 | 6 | 10 => 1
    | 3 => 2
    | _ => 0
  | _, _ => 0

/-! ## Decoding -/

/-- An operation without operand. -/
def operand0 (i : Instr) : List Byte → Except DecodeError Instr
  | [] => .ok i
  | _ => .error .operandLength

/-- An operation whose operand is one byte. -/
def operand1 (f : Byte → Instr) : List Byte → Except DecodeError Instr
  | [b] => .ok (f b)
  | _ => .error .operandLength

/-- An operation whose operand is one 16-bit word. -/
def operand2 (f : Cell → Instr) : List Byte → Except DecodeError Instr
  | [b0, b1] => .ok (f (u16Le b0 b1))
  | _ => .error .operandLength

/-- An operation whose operand is one 64-bit number. -/
def operandTime (f : Time → Instr) : List Byte → Except DecodeError Instr
  | [b0, b1, b2, b3, b4, b5, b6, b7] => .ok (f (u64Le b0 b1 b2 b3 b4 b5 b6 b7))
  | _ => .error .operandLength

/-- The payload of `ANALOG`: three 16-bit elements (R83). -/
def operandAnalog (f : Analog → Instr) : List Byte → Except DecodeError Instr
  | [a0, a1, b0, b1, c0, c1] => .ok (f ⟨u16Le a0 a1, u16Le b0 b1, u16Le c0 c1⟩)
  | _ => .error .operandLength

/-- The payload of `PWM_CFG`: two words (R83). -/
def operandPwmCfg (f : PwmCfg → Instr) : List Byte → Except DecodeError Instr
  | [f0, f1, f2, f3, d0, d1, d2, d3] => .ok (f ⟨u32Le f0 f1 f2 f3, u32Le d0 d1 d2 d3⟩)
  | _ => .error .operandLength

/-- The payload of `PT_START`: four words (R83). -/
def operandPtStart (f : PtStart → Instr) : List Byte → Except DecodeError Instr
  | [m0, m1, m2, m3, w0, w1, w2, w3, p0, p1, p2, p3, c0, c1, c2, c3] =>
    .ok (f ⟨u32Le m0 m1 m2 m3, u32Le w0 w1 w2 w3, u32Le p0 p1 p2 p3, u32Le c0 c1 c2 c3⟩)
  | _ => .error .operandLength

/-- The boolean of `SET_EVENTS_ENABLED`: 0 or 1 (R89). -/
def operandBool (f : Bool → Instr) : List Byte → Except DecodeError Instr
  | [b] => if b = 0 then .ok (f false) else if b = 1 then .ok (f true) else .error .operandValue
  | _ => .error .operandLength

/-- The channel of `DMA_ABORT_LAND`: 0 for `A`, 1 for `B` (R89). -/
def operandChannel (f : Channel → Instr) : List Byte → Except DecodeError Instr
  | [b] => if b = 0 then .ok (f .a) else if b = 1 then .ok (f .b) else .error .operandValue
  | _ => .error .operandLength

/-- The operation map of rule R95: class, access bit and index select the operation, whose operand is `ops`. -/
def decodeSelector (sel : BitVec 12) (ops : List Byte) : Except DecodeError Instr :=
  match selClass sel, selAcc sel with
  | 0, false =>
    match selIdx sel with
    | 0 => operand0 .rdDiState ops
    | 1 => operand0 .rdDoSet ops
    | 2 => operand0 .rdDoClear ops
    | 3 => operand0 .rdDoToggle ops
    | 4 => operand0 .rdDoState ops
    | 5 => operand0 .rdPtStart ops
    | 6 => operand0 .rdPtStop ops
    | 7 => operand0 .rdAnalog ops
    | 8 => operand0 .rdPwmCfg ops
    | 9 => operand0 .rdPwmStop ops
    | _ => .error (.unassigned sel)
  | 0, true =>
    match selIdx sel with
    | 0 => operand1 .wrDiState ops
    | 1 => operand1 .wrDoSet ops
    | 2 => operand1 .wrDoClear ops
    | 3 => operand1 .wrDoToggle ops
    | 4 => operand1 .wrDoState ops
    | 5 => operandPtStart .wrPtStart ops
    | 6 => operand1 .wrPtStop ops
    | 7 => operandAnalog .wrAnalog ops
    | 8 => operandPwmCfg .wrPwmCfg ops
    | 9 => operand1 .wrPwmStop ops
    | _ => .error (.unassigned sel)
  | 1, false =>
    match selIdx sel with
    | 0 => operand0 .reset ops
    | 1 => operand0 .update ops
    | 2 => operandBool .setEventsEnabled ops
    | 3 => operand0 .configure ops
    | _ => .error (.unassigned sel)
  | 2, false =>
    match selIdx sel with
    | 0 => operandTime .tickTime ops
    | 1 => operand1 .ptFire ops
    | 2 => operand1 .ptEnd ops
    | 3 => operand2 .adcConvert ops
    | 4 => operand0 .dmaAXfer ops
    | 5 => operand0 .dmaBXfer ops
    | 6 => operandChannel .dmaAbortLand ops
    | 7 => operand0 .drainFire ops
    | 8 => operand0 .drainRead ops
    | 9 => operand0 .drainPush ops
    | 10 => operand1 .diChange ops
    | 11 => operand0 .diEdge ops
    | _ => .error (.unassigned sel)
  | _, _ => .error (.unassigned sel)

/-- Decode one frame, all of it: every sequence of bytes is either one operation or refused for a named reason. -/
def decode : List Byte → Except DecodeError Instr
  | b0 :: b1 :: ops =>
    if (b1 >>> 4) = 0 then decodeSelector ((b1 ++ b0).setWidth 12) ops else .error .selectorBits
  | _ => .error .tooShort

/-! ## Encoding -/

/-- The selector of an operation (R95). -/
def Instr.selector : Instr → BitVec 12
  | .rdDiState => 0x000
  | .rdDoSet => 0x001
  | .rdDoClear => 0x002
  | .rdDoToggle => 0x003
  | .rdDoState => 0x004
  | .rdPtStart => 0x005
  | .rdPtStop => 0x006
  | .rdAnalog => 0x007
  | .rdPwmCfg => 0x008
  | .rdPwmStop => 0x009
  | .wrDiState _ => 0x100
  | .wrDoSet _ => 0x101
  | .wrDoClear _ => 0x102
  | .wrDoToggle _ => 0x103
  | .wrDoState _ => 0x104
  | .wrPtStart _ => 0x105
  | .wrPtStop _ => 0x106
  | .wrAnalog _ => 0x107
  | .wrPwmCfg _ => 0x108
  | .wrPwmStop _ => 0x109
  | .reset => 0x200
  | .update => 0x201
  | .setEventsEnabled _ => 0x202
  | .configure => 0x203
  | .tickTime _ => 0x400
  | .ptFire _ => 0x401
  | .ptEnd _ => 0x402
  | .adcConvert _ => 0x403
  | .dmaAXfer => 0x404
  | .dmaBXfer => 0x405
  | .dmaAbortLand _ => 0x406
  | .drainFire => 0x407
  | .drainRead => 0x408
  | .drainPush => 0x409
  | .diChange _ => 0x40A
  | .diEdge => 0x40B

/-- The payload of `PT_START` (R83). -/
def PtStart.bytes (p : PtStart) : List Byte := bytes4 p.mask ++ bytes4 p.widthUs ++ bytes4 p.periodUs ++ bytes4 p.count

/-- The payload of `ANALOG` (R83). -/
def Analog.bytes (v : Analog) : List Byte := bytes2 v.ch0 ++ bytes2 v.ch1 ++ bytes2 v.ch2

/-- The payload of `PWM_CFG` (R83). -/
def PwmCfg.bytes (p : PwmCfg) : List Byte := bytes4 p.frequencyHz ++ bytes4 p.dutyPercent

/-- The operand bytes of an operation (R83, R89). -/
def Instr.operandBytes : Instr → List Byte
  | .wrDiState v | .wrDoSet v | .wrDoClear v | .wrDoToggle v | .wrDoState v | .wrPtStop v | .wrPwmStop v => [v]
  | .wrPtStart p => p.bytes
  | .wrAnalog v => v.bytes
  | .wrPwmCfg p => p.bytes
  | .setEventsEnabled b => [if b then 1 else 0]
  | .tickTime delta => bytes8 delta
  | .ptFire m | .ptEnd m => [m]
  | .adcConvert w => bytes2 w
  | .dmaAbortLand .a => [0]
  | .dmaAbortLand .b => [1]
  | .diChange v => [v]
  | .rdDiState | .rdDoSet | .rdDoClear | .rdDoToggle | .rdDoState | .rdPtStart | .rdPtStop | .rdAnalog
  | .rdPwmCfg | .rdPwmStop | .reset | .update | .configure
  | .dmaAXfer | .dmaBXfer | .drainFire | .drainRead | .drainPush | .diEdge => []

/-- The frame of an operation: its selector, then its operand. -/
def encode (i : Instr) : List Byte := selBytes i.selector ++ i.operandBytes

/-! ## Words of the operation table -/

/-- The first `n` bytes of a number, lowest first. -/
def numBytes (n w : Nat) : List Byte := (List.range n).map fun k => BitVec.ofNat 8 (w >>> (8 * k))

/-- The frame whose bits are those of `w`, `nbits` of them, with every operand byte above them zero up to the length
its selector asks for. -/
def tableFrame (nbits w : Nat) : List Byte :=
  numBytes (max ((nbits + 7) / 8) (2 + operandLength (BitVec.ofNat 12 (w % 2 ^ nbits)))) (w % 2 ^ nbits)

/-- The operation the decoder reads from a word of the operation table. -/
def decodeTableWord (nbits w : Nat) : Option Instr := (decode (tableFrame nbits w)).toOption

end Sys2Proof
end

