-- ==== Sys2Proof/Machine/State.lean ====
section
/-! DEFINITION. The state of the engine (10_state.md): the components of rule R20, the main loop's position (R26), and
the model's own two fields: the parameters of the device and the schedule. All of it is plain data. -/

namespace Sys2Proof.Machine

open Sys2Proof.Config (Params)

/-! ## Outcomes -/

/-- The faults of the engine: none. "No condition in this core is fatal to the device" (R229, R243); a model "has no
fault state of the engine's own" (R243). Refused writes are answered with an error reply and the machine goes on. -/
inductive Fault where
  deriving DecidableEq, Repr

/-- Why the model defines no next state. -/
inductive Refusal where
  /-- Raised by `exec` for an operation without a meaning yet. Safe: nothing is claimed of it. No arm raises it. -/
  | notModelled (mnemonic : String)
  /-- Raised by `step` when the bytes of a turn are no operation of the engine: an unassigned selector, a payload of
  the wrong length (R96, R98, 93_implementation_defined.md U10 "refuse"). Safe: what answers such an access is the
  external dispatch layer, which the spec does not describe. -/
  | notAnOperation (e : DecodeError)
  /-- Raised by the four PWM operations in a variant without PWM, where their selectors are unassigned (R99, R226).
  Safe, for the same reason. -/
  | noPwmVariant
  /-- Raised by `CONFIGURE` while the pipeline runs, which the source does not describe (R141,
  93_implementation_defined.md U8 "refuse"). Safe: nothing is claimed of such a run. -/
  | configureWhileRunning
  /-- Raised by the main loop at startPipeline while `configured` is false, outside its precondition (R155, R284,
  93_implementation_defined.md U8 "refuse"). Safe: nothing is claimed of such a run. -/
  | startUnconfigured
  deriving DecidableEq, Repr

/-! ## The parts of the state -/

/-- One PulseTrain slot (R23). -/
structure Slot where
  outputMask : Byte
  widthUs : Word
  periodUs : Word
  /-- Signed: 0 or negative means repeat indefinitely. -/
  remaining : Word
  active : Bool
  /-- The periodic timer's next scheduled fire time, or none when it is not scheduled. -/
  periodic : Option Time
  /-- Signed: the next delay the periodic callback last computed; 0 is the stop sentinel (R260). -/
  nextDelay : Time
  /-- Targets of the pending end alarms, oldest first. -/
  ends : List Time
  deriving DecidableEq, Repr

/-- The stored fields of the register map (R28 to R38). `DO_STATE` has no storage: it is the view of `doPins` (R33). -/
structure RegMap where
  diState : Byte
  doSet : Byte
  doClear : Byte
  doToggle : Byte
  ptStart : PtStart
  ptStop : Byte
  analog : Analog
  pwmCfg : PwmCfg
  pwmStop : Byte
  deriving DecidableEq, Repr

/-- The Coordinator's cached state (R41). -/
inductive Coord where
  | inactive | active
  deriving DecidableEq, Repr

/-- The converter (R42): `rr` is the channel the next conversion converts, `fifo` the result queue, oldest first. -/
structure Adc where
  running : Bool
  rr : Fin 3
  fifo : List Cell
  deriving DecidableEq, Repr

/-- Transfer channel A (R44): `idx` counts the cells of the current pass already written. -/
structure ChanA where
  busy : Bool
  idx : Fin 4
  abortReq : Bool
  deriving DecidableEq, Repr

/-- Transfer channel B (R44). -/
structure ChanB where
  busy : Bool
  abortReq : Bool
  deriving DecidableEq, Repr

/-- A captured sample (R46): the capture time and the three channel values. -/
structure SampleItem where
  timestamp : Time
  ch0 : Sample
  ch1 : Sample
  ch2 : Sample
  deriving DecidableEq, Repr

/-- The phase of the drain callback (R45): `NoCb`; `Snap(i, vals)` as `snap0`, `snap1`, `snap2`, which hold the `i`
values read so far; `Push(item)`. -/
inductive DrainCb where
  | noCb
  | snap0
  | snap1 (v0 : Sample)
  | snap2 (v0 v1 : Sample)
  | push (item : SampleItem)
  deriving DecidableEq, Repr

/-- The drain timer (R45). -/
structure Drain where
  target : Option Time
  cb : DrainCb
  deriving DecidableEq, Repr

/-- The PWM generator's configuration (R47). -/
structure Pwm where
  running : Bool
  top : Nat
  level : Nat
  deriving DecidableEq, Repr

/-- The content of a field of the register map, as a reply carries it (R92, R94). -/
inductive FieldValue where
  | byte (v : Byte)
  | ptStart (v : PtStart)
  | analog (v : Analog)
  | pwmCfg (v : PwmCfg)
  deriving DecidableEq, Repr

/-- The two error codes (R93, R240 to R242). -/
inductive ErrorCode where
  | readOnly | invalidConfig
  deriving DecidableEq, Repr

/-- The four kinds of reply (R91 to R94). -/
inductive Reply where
  | writeAck (k : Field)
  | event (k : Field) (ts : Time) (value : FieldValue)
  | writeError (k : Field) (code : ErrorCode)
  | readReply (k : Field) (value : FieldValue)
  deriving DecidableEq, Repr

/-- The main loop's position inside the operation it is executing (R11, R26): the numbered sub-step it takes next.
Operands latched by an operation's first sub-step (92_eei_decisions.md D18) are carried here. -/
inductive MainPos where
  /-- Not inside an operation. -/
  | idle
  /-- The last sub-step of an accepted write: `reply WriteAck(k)` (R82, R91). -/
  | ack (k : Field)
  /-- WR_PT_START sub-step 2 (R113). -/
  | ptStartCancel (m : Byte) (w p c : Word)
  /-- WR_PT_START sub-step 3 (R113). -/
  | ptStartArm (m : Byte) (w p c : Word)
  /-- WR_PT_STOP sub-step 2 (R114). -/
  | ptStopCancel (m : Byte)
  /-- WR_PWM_CFG sub-step 2, with the frequency and the clamped duty (R221). -/
  | pwmApply (f d : Word)
  /-- WR_PWM_STOP sub-step 2 (R225). -/
  | pwmHalt
  /-- UPDATE sub-step 2: the Coordinator reads the flag (R182, R183). -/
  | coordEval
  /-- enableTransition sub-step 1 (R184). -/
  | enableIrq
  /-- startPipeline sub-step 1 (R155). -/
  | startSelect
  /-- startPipeline sub-step 2 (R155). -/
  | startTrigger
  /-- startPipeline sub-step 3 (R155). -/
  | startConvert
  /-- startPipeline sub-step 4 (R155). -/
  | startDrain
  /-- enableTransition sub-step 3 (R184). -/
  | enableDone
  /-- disableTransition sub-step 1 (R185). -/
  | disableIrq
  /-- stopPipeline sub-step 1, cancelDrain (R156, R169). -/
  | stopDrain
  /-- The abort loop's sub-step 2a (R157). -/
  | abortRequest
  /-- The abort loop's sub-step 2b (R157). -/
  | abortTest
  /-- stopPipeline sub-step 3 (R156). -/
  | stopConvert
  /-- stopPipeline sub-step 4 (R156). -/
  | stopFlush
  /-- disableTransition sub-step 3 for slot `m` (R185). -/
  | cancelSlots (m : Byte)
  /-- disableTransition sub-step 4 (R185). -/
  | disableDone
  deriving DecidableEq, Repr

/-! ## The state -/

/-- The state of the engine (R20), and the fields of the model's own: `cfg` and `sched`. -/
structure State where
  /-- The parameters of the device, fixed for a run (R7); no step writes them. -/
  cfg : Params
  /-- The schedule still to come: which step happens next (R12, R49). The model's own field, an input of the run. -/
  sched : List Turn
  /-- The main loop's position (R26). -/
  main : MainPos
  /-- Device time in microseconds (R21). -/
  now : Time
  /-- The slot pool (R22). -/
  slots : Vector Slot 256
  /-- The register map (R28). -/
  regs : RegMap
  /-- The levels of the eight digital outputs (R39). -/
  doPins : Byte
  /-- The levels of the digital inputs, an input (R39). -/
  diPins : Byte
  /-- The events-enabled flag, an input (R40). -/
  eventsEnabled : Bool
  /-- The Coordinator's state (R41). -/
  coord : Coord
  /-- Digital-input interrupt delivery is enabled (R41). -/
  diIrqEnabled : Bool
  adc : Adc
  /-- The AnalogBuffer (R43). -/
  buf : Vector Cell 3
  chA : ChanA
  chB : ChanB
  drain : Drain
  /-- The hand-off queue, oldest first (R46). -/
  queue : List SampleItem
  pwm : Pwm
  /-- The replies emitted so far, oldest first; append-only (R48). -/
  out : List Reply
  /-- CONFIGURE has run since power-on (R49). -/
  configured : Bool
  deriving DecidableEq, Repr

/-! ## Power-on and reset (R49, R281) -/

/-- An idle slot whose unobservable fields are zero. -/
def Slot.zero : Slot where
  outputMask := 0
  widthUs := 0
  periodUs := 0
  remaining := 0
  active := false
  periodic := none
  nextDelay := 0
  ends := []

/-- Every field of the register map zero (R28). -/
def RegMap.zero : RegMap where
  diState := 0
  doSet := 0
  doClear := 0
  doToggle := 0
  ptStart := ⟨0, 0, 0, 0⟩
  ptStop := 0
  analog := ⟨0, 0, 0⟩
  pwmCfg := ⟨0, 0⟩
  pwmStop := 0

/-- The power-on state of rule R281 for a device with parameters `c`. Where the spec says "any" (`now`, `buf`, the other
fields of a slot, `eventsEnabled`, `diPins`) the value is zero or false (notes/assumptions/1.md, DESIGN CHOICE). -/
def State.powerOn (c : Params) : State where
  cfg := c
  sched := []
  main := .idle
  now := 0
  slots := Vector.replicate 256 Slot.zero
  regs := RegMap.zero
  doPins := 0
  diPins := 0
  eventsEnabled := false
  coord := .inactive
  diIrqEnabled := false
  adc := { running := false, rr := 0, fifo := [] }
  buf := Vector.replicate 3 0
  chA := { busy := false, idx := 0, abortReq := false }
  chB := { busy := false, abortReq := false }
  drain := { target := none, cb := .noCb }
  queue := []
  pwm := { running := false, top := 0, level := 0 }
  out := []
  configured := false

/-- The machine right after reset: the power-on state of the device whose parameters are `Config.params`. -/
def State.reset : State := State.powerOn Config.params

end Sys2Proof.Machine
end

