-- ==== Sys2Proof/Machine/Ops.lean ====
section
/-! DEFINITION. The named operations every meaning is written over: the slot pool, reading a field, replies, events and
error replies (the engine's exceptions, R8), guards and contexts (R12, R254, R263), and the alarm primitive
(60_exceptions.md section 5). -/

namespace Sys2Proof.Machine

open Sys2Proof.Config (Params)

/-! ## The slot pool (R22) -/

/-- `slot[m]`. Every byte names a slot. -/
def State.slot (s : State) (m : Byte) : Slot := s.slots[m.toNat]'(by omega)

/-- The slot pool with slot `m` replaced. -/
def State.poolWith (s : State) (m : Byte) (x : Slot) : Vector Slot 256 := s.slots.set m.toNat x (by omega)

/-- `slot[m] <- x`. -/
def State.setSlot (s : State) (m : Byte) (x : Slot) : State := { s with slots := s.poolWith m x }

/-- The slot numbers 0 to 255, ascending. -/
def slotNumbers : List Byte := (List.range 256).map (BitVec.ofNat 8)

/-! ## The register map (R28, R51, R63) -/

/-- The index of a field (R28). -/
def fieldIndex : Field → Nat
  | .diState => 0
  | .doSet => 1
  | .doClear => 2
  | .doToggle => 3
  | .doState => 4
  | .ptStart => 5
  | .ptStop => 6
  | .analog => 7
  | .pwmCfg => 8
  | .pwmStop => 9

/-- The field with a given index. -/
def fieldOfIndex : Nat → Option Field
  | 0 => some .diState
  | 1 => some .doSet
  | 2 => some .doClear
  | 3 => some .doToggle
  | 4 => some .doState
  | 5 => some .ptStart
  | 6 => some .ptStop
  | 7 => some .analog
  | 8 => some .pwmCfg
  | 9 => some .pwmStop
  | _ => none

/-- The width `W(k)` of a field in bytes (R51). -/
def fieldWidth : Field → Nat
  | .diState | .doSet | .doClear | .doToggle | .doState | .ptStop | .pwmStop => 1
  | .ptStart => 16
  | .analog => 6
  | .pwmCfg => 8

/-- The field is one of the two the device has only in a variant with PWM (R37, R38, R99). -/
def fieldIsPwm : Field → Bool
  | .pwmCfg | .pwmStop => true
  | .diState | .doSet | .doClear | .doToggle | .doState | .ptStart | .ptStop | .analog => false

/-- The register number of a field: `REG_BASE + k` (R51). Replies and events are addressed by it (R63). -/
def registerNumber (c : Params) (k : Field) : Nat := c.regBase + fieldIndex k

/-- The field a register number names, if it is the engine's (R63, R96). -/
def fieldOfRegister (c : Params) (n : Nat) : Option Field :=
  if n < c.regBase then none
  else (fieldOfIndex (n - c.regBase)).filter fun k => !fieldIsPwm k || c.hasPwm

/-- `R[k]`: the content of a field; `DO_STATE` is the view of `doPins` (R33, R94). -/
def fieldValue (s : State) : Field → FieldValue
  | .diState => .byte s.regs.diState
  | .doSet => .byte s.regs.doSet
  | .doClear => .byte s.regs.doClear
  | .doToggle => .byte s.regs.doToggle
  | .doState => .byte s.doPins
  | .ptStart => .ptStart s.regs.ptStart
  | .ptStop => .byte s.regs.ptStop
  | .analog => .analog s.regs.analog
  | .pwmCfg => .pwmCfg s.regs.pwmCfg
  | .pwmStop => .byte s.regs.pwmStop

/-- The level of a physical pin, for the pins the outputs reach: output `i` is pin `DO_BASE_PIN + i`, and bits 0 to
`N_DO_WIRED - 1` reach a pin (R39, R85). -/
def pinLevel (s : State) (pin : Nat) : Option Bool :=
  if s.cfg.doBasePin ≤ pin ∧ pin < s.cfg.doBasePin + s.cfg.nDoWired then
    some (s.doPins.getLsbD (pin - s.cfg.doBasePin))
  else none

/-! ## Replies (R48, R90 to R94) -/

/-- `reply r`: append to the output stream. -/
def State.reply (s : State) (r : Reply) : State := { s with out := s.out ++ [r] }

/-- `notify(k)`: `reply Event(k, now, R[k])` (R92). -/
def State.notify (s : State) (k : Field) : State := s.reply (.event k s.now (fieldValue s k))

/-- `raise`: the engine takes an exception by emitting an error reply in place of the acknowledgement. It names the
written field and the code, records nothing else, and leaves the engine running (R10, R93, R240). -/
def State.raise (s : State) (k : Field) (code : ErrorCode) : State := s.reply (.writeError k code)

/-- `reply ReadReply(k, R[k])` (R94). -/
def State.replyRead (s : State) (k : Field) : State := s.reply (.readReply k (fieldValue s k))

/-- The main loop goes on to a sub-step (R11, R26). -/
def State.goto (s : State) (p : MainPos) : State := { s with main := p }

/-! ## Contexts and guards (R12, R254, R263, R264) -/

/-- The execution contexts (R263). -/
inductive Context where
  | host | mainLoop | interrupt | hardware
  deriving DecidableEq, Repr

/-- The context an operation runs in (R263). A host access runs in the main loop, which dispatch delivers it to. -/
def contextOf : Instr → Context
  | .rdDiState | .rdDoSet | .rdDoClear | .rdDoToggle | .rdDoState | .rdPtStart | .rdPtStop | .rdAnalog
  | .rdPwmCfg | .rdPwmStop
  | .wrDiState _ | .wrDoSet _ | .wrDoClear _ | .wrDoToggle _ | .wrDoState _ | .wrPtStart _ | .wrPtStop _ | .wrAnalog _
  | .wrPwmCfg _ | .wrPwmStop _ | .reset | .update | .configure => .mainLoop
  | .setEventsEnabled _ => .host
  | .ptFire _ | .ptEnd _ | .drainFire | .drainRead | .drainPush | .diEdge => .interrupt
  | .tickTime _ | .adcConvert _ | .dmaAXfer | .dmaBXfer | .dmaAbortLand _ | .diChange _ => .hardware

/-- The agents (R264). -/
inductive Agent where
  | host | mainLoop | time | pulseTimer (m : Byte) | endAlarm (m : Byte) | converter | channelA | channelB
  | drainTimer | digitalInput
  deriving DecidableEq, Repr

/-- The agent that takes the step of an operation (R26, R264). -/
def agentOf : Instr → Agent
  | .rdDiState | .rdDoSet | .rdDoClear | .rdDoToggle | .rdDoState | .rdPtStart | .rdPtStop | .rdAnalog
  | .rdPwmCfg | .rdPwmStop
  | .wrDiState _ | .wrDoSet _ | .wrDoClear _ | .wrDoToggle _ | .wrDoState _ | .wrPtStart _ | .wrPtStop _ | .wrAnalog _
  | .wrPwmCfg _ | .wrPwmStop _ | .setEventsEnabled _ => .host
  | .reset | .update | .configure => .mainLoop
  | .tickTime _ => .time
  | .ptFire m => .pulseTimer m
  | .ptEnd m => .endAlarm m
  | .adcConvert _ => .converter
  | .dmaAXfer | .dmaAbortLand .a => .channelA
  | .dmaBXfer | .dmaAbortLand .b => .channelB
  | .drainFire | .drainRead | .drainPush => .drainTimer
  | .diChange _ | .diEdge => .digitalInput

/-- The drain callback has not been entered (R45). -/
def DrainCb.isNone : DrainCb → Bool
  | .noCb => true
  | .snap0 | .snap1 _ | .snap2 _ _ | .push _ => false

/-- The drain callback is in phase `Snap` (R45). -/
def DrainCb.isSnap : DrainCb → Bool
  | .snap0 | .snap1 _ | .snap2 _ _ => true
  | .noCb | .push _ => false

/-- The main loop is not inside an operation (R26). -/
def MainPos.isIdle (p : MainPos) : Bool := decide (p = .idle)

/-- The interrupt context is free exactly when `drain.cb = NoCb` (R254). -/
def irqFree (s : State) : Bool := s.drain.cb.isNone

/-- The main loop takes a step except while the drain callback is in phase `Snap` (R254). -/
def mainMayRun (s : State) : Bool := !s.drain.cb.isSnap

/-- The main loop may begin an operation: it may run and is not inside another one (R182, R280). -/
def mainFree (s : State) : Bool := s.main.isIdle && mainMayRun s

/-- A guarded step (R12): where the guard is false the step does not happen, its agent is held, and nothing changes
(notes/assumptions/2.md). -/
def guarded (g : Bool) (effect : State → State) (s : State) : Host.Outcome State Fault Refusal :=
  .next (if g then effect s else s)

/-- A step of an operation that exists only in a variant with PWM (R99, R226). -/
def pwmOnly (s : State) (o : Host.Outcome State Fault Refusal) : Host.Outcome State Fault Refusal :=
  if s.cfg.hasPwm then o else .refused .noPwmVariant

/-! ## The alarm primitive (R255 to R262) -/

/-- The alarm is armed and due: `target = Some(T)` and `now >= T` (R258). -/
def due (target : Option Time) (now : Time) : Bool :=
  match target with
  | some t => decide (t ≤ now)
  | none => false

/-- What a callback's returned delay makes of its alarm (R252, R259, R260): zero, do not repeat; negative `-N`, `N` after
the previous target; positive, that long after the callback's return (the last PRESUMED, as R259 marks it; no callback
returns one). -/
def nextTarget (now target delay : Time) : Option Time :=
  if delay = 0 then none
  else if delay.slt 0 then some (target - delay)
  else some (now + delay)

/-- The targets of every armed alarm (R258): the periodic timers, the end alarms, the drain timer. -/
def armedTargets (s : State) : List Time :=
  s.slots.toList.flatMap (fun x => x.periodic.toList ++ x.ends) ++ s.drain.target.toList

/-- TICK_TIME's guard (R258): `delta >= 1`, the time stays below 2^64, and, with a finite `JITTER_MAX_US` and the
interrupt context free, no armed alarm is made later than that. -/
def timeMayAdvance (s : State) (delta : Time) : Bool :=
  delta != 0 && decide (s.now.toNat + delta.toNat < 2 ^ 64) &&
  match s.cfg.jitterMaxUs with
  | none => true
  | some j => !irqFree s || (armedTargets s).all fun a => decide (s.now.toNat + delta.toNat ≤ a.toNat + j)

end Sys2Proof.Machine
end

