-- ==== Sys2Proof/Machine/Operands.lean ====
section
/-! DEFINITION. Operand assembly (30_encoding.md section 2, rules R85 to R88): what a handler takes from the field its
payload was stored in. -/

namespace Sys2Proof.Machine

/-- The slot index and output mask of a `PT_START` payload: bits 7 to 0 of the mask word; bits 31 to 8 are ignored
(R13 (j), R85). -/
def maskOf (p : PtStart) : Byte := p.mask.setWidth 8

/-- A duration of a train as it is added to a time: `zext_64` (R85). -/
def durationOf (us : Word) : Time := us.setWidth 64

/-- The duty the generator uses: `min(dutyPercent, 100)` (R88, R222). -/
def clampDuty (d : Word) : Word := if d ≤ 100 then d else 100

/-- An element of `ANALOG` from a channel value: `zext_16` (R87). -/
def analogElement (v : Sample) : Cell := v.setWidth 16

/-- The channel value in a cell: bits 11 to 0 (R13 (g), R159). -/
def sampleOf (w : Cell) : Sample := w.setWidth 12

/-- The three elements of `ANALOG` for a sample (R162). -/
def analogOf (item : SampleItem) : Analog := ⟨analogElement item.ch0, analogElement item.ch1, analogElement item.ch2⟩

end Sys2Proof.Machine
end

