-- ==== Sys2Proof/Machine/Flags.lean ====
section
/-! DEFINITION. The status flags of rule R27 and what is read off them: the phase of a slot (R110), the stop sentinel
(R260), the count (R115, R117), a channel's busy and idle reports (R150), the data request (R154), and whether the
pipeline is stopped (R155). -/

namespace Sys2Proof.Machine

/-- The phases of a slot (R110). -/
inductive Phase where
  | idle | running | finishing
  deriving DecidableEq, Repr

/-- The phase of a slot, read off its state (R110). -/
def phaseOf (x : Slot) : Phase :=
  if x.active then if x.periodic.isSome then .running else .finishing else .idle

/-- The stop sentinel: a computed next delay of zero (R27, R260). -/
def stopSentinel (x : Slot) : Bool := decide (x.nextDelay = 0)

/-- `remaining > 0`, a signed comparison (R13 (a)). -/
def countPositive (remaining : Word) : Bool := BitVec.slt 0 remaining

/-- The count after a fire: decremented only when positive (R13 (a), R115 (2), R117). -/
def countAfterFire (remaining : Word) : Word := if countPositive remaining then remaining - 1 else remaining

/-- The next delay a fire computes (R13 (b), R115 (1), (2)): the negative of the period, or the stop sentinel when the
decrement reaches zero. -/
def delayAfterFire (periodUs remaining : Word) : Time :=
  if countPositive remaining && decide (remaining - 1 = 0) then 0 else 0 - durationOf periodUs

/-- Channel A reports idle: `not busy and not abortReq` (R150). -/
def chanAIdle (s : State) : Bool := !s.chA.busy && !s.chA.abortReq

/-- Channel B reports idle (R150). -/
def chanBIdle (s : State) : Bool := !s.chB.busy && !s.chB.abortReq

/-- The converter's data-request signal: asserted while the result queue is not empty (R154). -/
def dataRequest (s : State) : Bool := !s.adc.fifo.isEmpty

/-- The pipeline is stopped (R155): both channels report idle, the converter does not run, its queue is empty, the
drain timer is unarmed and its callback is not in flight. -/
def pipelineStopped (s : State) : Bool :=
  chanAIdle s && chanBIdle s && !s.adc.running && s.adc.fifo.isEmpty && s.drain.target.isNone && s.drain.cb.isNone

end Sys2Proof.Machine
end

