-- ==== Sys2Proof/Machine/PulseTrain.lean ====
section
/-! DEFINITION. The Pulse-Train Engine (40_pulse_train.md): cancelSlot and armSlot, the two host writes, the two
callbacks. -/

namespace Sys2Proof.Machine

/-! ## Procedures -/

/-- A slot with its timers cancelled (R111, R280): `active`, `periodic` and `ends` cleared, the rest kept. -/
def Slot.cancelled (x : Slot) : Slot := { x with active := false, periodic := none, ends := [] }

/-- `cancelSlot(m)` (R111): an active slot is cleared and "train stopped" is raised; an idle one is left alone. The
output pins are not written (R126). -/
def cancelSlot (m : Byte) (s : State) : State :=
  if (s.slot m).active then
    State.notify
      { s with slots := s.poolWith m (s.slot m).cancelled, regs := { s.regs with ptStop := (s.slot m).outputMask } }
      .ptStop
  else s

/-- `armSlot(m, w, p, c)` (R112): the periodic timer's first target is the time of arming. -/
def armSlot (m : Byte) (w p c : Word) (s : State) : State :=
  s.setSlot m
    { outputMask := m, widthUs := w, periodUs := p, remaining := c, active := true, periodic := some s.now,
      nextDelay := 0, ends := [] }

/-! ## Host writes -/

/-- WR_PT_START sub-step 1 (R113): the payload is stored and the operands are latched. -/
def ptStartStore (p : PtStart) (s : State) : State :=
  { s with
    regs := { s.regs with ptStart := p }
    main := .ptStartCancel (maskOf p) p.widthUs p.periodUs p.count }

/-- `WR_PT_START` (R113): its first sub-step. The main loop's next turns take the others. -/
def execWrPtStart (p : PtStart) (s : State) : Host.Outcome State Fault Refusal :=
  guarded (mainFree s) (ptStartStore p) s

/-- WR_PT_STOP sub-step 1 (R114). -/
def ptStopStore (v : Byte) (s : State) : State :=
  { s with regs := { s.regs with ptStop := v }, main := .ptStopCancel v }

/-- `WR_PT_STOP` (R114): its first sub-step. -/
def execWrPtStop (v : Byte) (s : State) : Host.Outcome State Fault Refusal :=
  guarded (mainFree s) (ptStopStore v) s

/-! ## Callbacks -/

/-- The slot after its periodic callback at time `now`, whose scheduled time was `target` (R115). -/
def Slot.fired (x : Slot) (now target : Time) : Slot :=
  { x with
    remaining := countAfterFire x.remaining
    ends := x.ends ++ [now + durationOf x.widthUs]
    nextDelay := delayAfterFire x.periodUs x.remaining
    periodic := nextTarget now target (delayAfterFire x.periodUs x.remaining) }

/-- The effect of PT_FIRE (R115): a pulse starts. -/
def fireSlot (m : Byte) (s : State) : State :=
  match (s.slot m).periodic with
  | some target =>
    State.notify
      { s with
        slots := s.poolWith m ((s.slot m).fired s.now target)
        doPins := s.doPins ||| (s.slot m).outputMask
        regs := { s.regs with doSet := (s.slot m).outputMask } } .doSet
  | none => s

/-- PT_FIRE's guard (R115): the periodic alarm is due and the interrupt context is free. -/
def fireEnabled (m : Byte) (s : State) : Bool := due (s.slot m).periodic s.now && irqFree s

/-- `PT_FIRE(m)` (R115). -/
def execPtFire (m : Byte) (s : State) : Host.Outcome State Fault Refusal := guarded (fireEnabled m s) (fireSlot m) s

/-- A pulse of slot `m` ends (R116): the mask is cleared from the pins and "pulse ended" is raised; `rest` are the
end alarms left. -/
def endPulse (m : Byte) (rest : List Time) (s : State) : State :=
  State.notify
    { s with
      slots := s.poolWith m { s.slot m with ends := rest }
      doPins := s.doPins &&& ~~~(s.slot m).outputMask
      regs := { s.regs with doClear := (s.slot m).outputMask } } .doClear

/-- Natural completion (R116): the slot becomes idle and "train stopped" is raised. -/
def completeTrain (m : Byte) (s : State) : State :=
  State.notify
    { s with slots := s.poolWith m (s.slot m).cancelled, regs := { s.regs with ptStop := (s.slot m).outputMask } }
    .ptStop

/-- The effect of PT_END (R116): the pulse ends, and where the stop sentinel stands the train completes. -/
def endSlot (m : Byte) (s : State) : State :=
  match (s.slot m).ends with
  | _ :: rest =>
    if stopSentinel (s.slot m) then completeTrain m (endPulse m rest s) else endPulse m rest s
  | [] => s

/-- PT_END's guard (R116): the oldest end alarm is due and the interrupt context is free. -/
def endEnabled (m : Byte) (s : State) : Bool := due (s.slot m).ends.head? s.now && irqFree s

/-- `PT_END(m)` (R116). -/
def execPtEnd (m : Byte) (s : State) : Host.Outcome State Fault Refusal := guarded (endEnabled m s) (endSlot m) s

end Sys2Proof.Machine
end

