-- ==== Sys2Proof/Machine/PwmUnit.lean ====
section
/-! DEFINITION. The PWM configuration fields (44_pwm.md). The counter and its waveform are out of scope (R220). -/

namespace Sys2Proof.Machine

/-- The period in counter ticks: `floor(PWM_CLK_HZ / f)` (R224). -/
def pwmTop (clkHz : Nat) (f : Word) : Nat := clkHz / f.toNat

/-- The ticks the output is high: `floor(top * d / 100)`, without overflow (R13 (k), R224). -/
def pwmLevel (top : Nat) (d : Word) : Nat := top * d.toNat / 100

/-- WR_PWM_CFG sub-step 1 (R221): the payload is stored unclamped; the frequency and the clamped duty are latched. -/
def pwmCfgStore (p : PwmCfg) (s : State) : State :=
  { s with regs := { s.regs with pwmCfg := p }, main := .pwmApply p.frequencyHz (clampDuty p.dutyPercent) }

/-- WR_PWM_CFG sub-step 2 (R221, R223): a zero frequency is answered with an error reply and the generator is left
alone; else the generator runs with the new configuration and the write is acknowledged. -/
def pwmApply (f d : Word) (s : State) : State :=
  if f = 0 then s.raise .pwmCfg .invalidConfig
  else
    State.reply
      { s with pwm := { running := true, top := pwmTop s.cfg.pwmClkHz f, level := pwmLevel (pwmTop s.cfg.pwmClkHz f) d } }
      (.writeAck .pwmCfg)

/-- `WR_PWM_CFG` (R221), only with `HAS_PWM`: its first sub-step. -/
def execWrPwmCfg (p : PwmCfg) (s : State) : Host.Outcome State Fault Refusal :=
  pwmOnly s (guarded (mainFree s) (pwmCfgStore p) s)

/-- The generator stopped (R47, R225). -/
def Pwm.stopped : Pwm where
  running := false
  top := 0
  level := 0

/-- WR_PWM_STOP sub-step 1 (R225). -/
def pwmStopStore (v : Byte) (s : State) : State := { s with regs := { s.regs with pwmStop := v }, main := .pwmHalt }

/-- WR_PWM_STOP sub-step 2 (R225). -/
def pwmHalt (s : State) : State := { s with pwm := Pwm.stopped }

/-- `WR_PWM_STOP` (R225), only with `HAS_PWM`: its first sub-step. -/
def execWrPwmStop (v : Byte) (s : State) : Host.Outcome State Fault Refusal :=
  pwmOnly s (guarded (mainFree s) (pwmStopStore v) s)

end Sys2Proof.Machine
end

