-- ==== Sys2Proof/Machine/Sampling.lean ====
section
/-! DEFINITION. The continuous sampling pipeline and the hand-off queue (41_sampling.md): configuration, the two
transfer channels, the converter, the drain callback, and the sub-steps of start, stop and pop. -/

namespace Sys2Proof.Machine

/-! ## Configuration -/

/-- `CONFIGURE` (R141). The fixed settings of rule R142 are not state. While the pipeline runs the source does not
describe it (93_implementation_defined.md U8). -/
def execConfigure (s : State) : Host.Outcome State Fault Refusal :=
  if mainFree s && !pipelineStopped s then .refused .configureWhileRunning
  else guarded (mainFree s) (fun t => { t with configured := true }) s

/-! ## The transfer channels -/

/-- The effect of DMA_A_XFER (R144): the oldest converter word goes to the next cell; the third completes the pass and
triggers Channel B in the same step (R145). -/
def transferA (s : State) : State :=
  match s.adc.fifo with
  | w :: rest =>
    let t : State :=
      { s with
        adc := { s.adc with fifo := rest }
        buf := s.buf.setIfInBounds s.chA.idx.val w
        chA := { s.chA with idx := s.chA.idx + 1 } }
    if t.chA.idx = 3 then { t with chA := { t.chA with busy := false }, chB := { t.chB with busy := true } } else t
  | [] => s

/-- DMA_A_XFER's guard (R144). -/
def transferAEnabled (s : State) : Bool := s.chA.busy && decide (s.chA.idx < 3) && dataRequest s

/-- `DMA_A_XFER` (R144). -/
def execDmaAXfer (s : State) : Host.Outcome State Fault Refusal := guarded (transferAEnabled s) transferA s

/-- The effect of DMA_B_XFER (R146): Channel A's destination is the buffer's base again, A is re-armed, B completes. -/
def transferB (s : State) : State :=
  { s with chA := { s.chA with idx := 0, busy := true }, chB := { s.chB with busy := false } }

/-- `DMA_B_XFER` (R146). -/
def execDmaBXfer (s : State) : Host.Outcome State Fault Refusal := guarded s.chB.busy transferB s

/-- The effect of DMA_ABORT_LAND (R149): the channel stops without completing and the request is answered. -/
def landAbort (x : Channel) (s : State) : State :=
  match x with
  | .a => { s with chA := { s.chA with busy := false, abortReq := false } }
  | .b => { s with chB := { busy := false, abortReq := false } }

/-- DMA_ABORT_LAND's guard (R149): an abort of the channel is requested. -/
def abortRequested (x : Channel) (s : State) : Bool :=
  match x with
  | .a => s.chA.abortReq
  | .b => s.chB.abortReq

/-- `DMA_ABORT_LAND(x)` (R149). -/
def execDmaAbortLand (x : Channel) (s : State) : Host.Outcome State Fault Refusal :=
  guarded (abortRequested x s) (landAbort x) s

/-! ## The converter -/

/-- The effect of ADC_CONVERT (R152) with the draw `w`: the word enters the result queue, or is lost when the queue is
full (R153); the round-robin pointer advances either way. -/
def convert (w : Cell) (s : State) : State :=
  { s with
    adc :=
      { s.adc with
        fifo := if s.adc.fifo.length < s.cfg.adcFifoDepth then s.adc.fifo ++ [w] else s.adc.fifo
        rr := s.adc.rr + 1 } }

/-- `ADC_CONVERT` (R152). -/
def execAdcConvert (w : Cell) (s : State) : Host.Outcome State Fault Refusal := guarded s.adc.running (convert w) s

/-! ## The drain callback -/

/-- DRAIN_FIRE's guard (R158). -/
def drainFireEnabled (s : State) : Bool := due s.drain.target s.now && irqFree s

/-- The effect of DRAIN_FIRE (R158): with events disabled the timer cancels itself, else the callback is in flight. -/
def drainEnter (s : State) : State :=
  if s.eventsEnabled then { s with drain := { s.drain with cb := .snap0 } }
  else { s with drain := { s.drain with target := none } }

/-- `DRAIN_FIRE` (R158). -/
def execDrainFire (s : State) : Host.Outcome State Fault Refusal := guarded (drainFireEnabled s) drainEnter s

/-- The phase after reading one cell (R159): the third read stamps the snapshot with the current time. -/
def readCell (s : State) : DrainCb :=
  match s.drain.cb with
  | .snap0 => .snap1 (sampleOf s.buf[0])
  | .snap1 v0 => .snap2 v0 (sampleOf s.buf[1])
  | .snap2 v0 v1 => .push { timestamp := s.now, ch0 := v0, ch1 := v1, ch2 := sampleOf s.buf[2] }
  | .noCb => .noCb
  | .push item => .push item

/-- The effect of DRAIN_READ (R159). -/
def drainReadStep (s : State) : State := { s with drain := { s.drain with cb := readCell s } }

/-- `DRAIN_READ` (R159). -/
def execDrainRead (s : State) : Host.Outcome State Fault Refusal := guarded s.drain.cb.isSnap drainReadStep s

/-- The queue has room: push's guard (R70). -/
def queueHasRoom (s : State) : Bool := decide (s.queue.length < Config.queueCap)

/-- The effect of DRAIN_PUSH (R160): the item is queued, the timer is re-armed from its scheduled time, the callback
returns. -/
def drainReturn (s : State) : State :=
  match s.drain.cb, s.drain.target with
  | .push item, some t =>
    { s with queue := s.queue ++ [item], drain := { target := some (t + s.cfg.drainPeriodUs), cb := .noCb } }
  | _, _ => s

/-- The drain callback is in phase `Push` (R45). -/
def DrainCb.isPush : DrainCb → Bool
  | .push _ => true
  | .noCb | .snap0 | .snap1 _ | .snap2 _ _ => false

/-- DRAIN_PUSH's guard (R160): phase `Push`, the timer armed, and room in the queue. -/
def drainPushEnabled (s : State) : Bool := s.drain.cb.isPush && s.drain.target.isSome && queueHasRoom s

/-- `DRAIN_PUSH` (R160). -/
def execDrainPush (s : State) : Host.Outcome State Fault Refusal := guarded (drainPushEnabled s) drainReturn s

/-! ## The main loop's side -/

/-- `popSample()` (R162): at most one item goes to `ANALOG`, with an event that carries its capture time. -/
def popSample (s : State) : State :=
  match s.queue with
  | item :: rest =>
    State.reply { s with queue := rest, regs := { s.regs with analog := analogOf item } }
      (.event .analog item.timestamp (.analog (analogOf item)))
  | [] => s

/-- startPipeline sub-step 1 (R155): the first channel is selected. -/
def startSelect (s : State) : State := { s with adc := { s.adc with rr := 0 } }

/-- startPipeline sub-step 2 (R155): Channel B is triggered. -/
def startTrigger (s : State) : State := { s with chB := { s.chB with busy := true } }

/-- startPipeline sub-step 3 (R155): free-running conversion begins. -/
def startConvert (s : State) : State := { s with adc := { s.adc with running := true } }

/-- startPipeline sub-step 4 (R155): the drain timer is armed one period ahead. -/
def startDrain (s : State) : State :=
  { s with drain := { s.drain with target := some (s.now + s.cfg.drainPeriodUs) } }

/-- `cancelDrain()` (R169), stopPipeline sub-step 1 (R156). -/
def cancelDrain (s : State) : State := { s with drain := { target := none, cb := .noCb } }

/-- The abort loop's sub-step 2a (R148, R157): an abort is requested of each busy channel. -/
def requestAborts (s : State) : State :=
  { s with
    chA := { s.chA with abortReq := s.chA.abortReq || s.chA.busy }
    chB := { s.chB with abortReq := s.chB.abortReq || s.chB.busy } }

/-- The abort loop's sub-step 2b (R157): both channels report idle. -/
def abortsLanded (s : State) : Bool := chanAIdle s && chanBIdle s

/-- stopPipeline sub-step 3 (R156): conversion stops and the result queue is flushed. -/
def stopConvert (s : State) : State := { s with adc := { s.adc with running := false, fifo := [] } }

/-- stopPipeline sub-step 4 (R72, R156): the hand-off queue is flushed. -/
def stopFlush (s : State) : State := { s with queue := [] }

end Sys2Proof.Machine
end

