-- ==== Sys2Proof/Machine/Coordinator.lean ====
section
/-! DEFINITION. The Coordinator and the update tick (42_coordinator.md), and the main loop's sub-steps: what each
position of the main loop does on its turn (00_scope.md rule R11). -/

namespace Sys2Proof.Machine

/-- `SET_EVENTS_ENABLED(b)` (R181): nothing but the flag changes. -/
def execSetEventsEnabled (b : Bool) (s : State) : Host.Outcome State Fault Refusal :=
  .next { s with eventsEnabled := b }

/-- `UPDATE` (R182): its first sub-step, the pop; the Coordinator's evaluation is the next. -/
def execUpdate (s : State) : Host.Outcome State Fault Refusal :=
  guarded (mainFree s) (fun t => (popSample t).goto .coordEval) s

/-- `coordEval()` (R183): the flag is read once, and the transition it asks for begins. -/
def coordNext (s : State) : MainPos :=
  match s.coord, s.eventsEnabled with
  | .inactive, true => .enableIrq
  | .active, false => .disableIrq
  | .inactive, false => .idle
  | .active, true => .idle

/-- One sub-step of the operation the main loop is inside (R11). Each case is one numbered sub-step of the rule that
`MainPos` cites, and says which sub-step follows. -/
def subStep (s : State) : Host.Outcome State Fault Refusal :=
  match s.main with
  | .idle => .next s
  | .ack k => .next ((s.reply (.writeAck k)).goto .idle)
  | .ptStartCancel m w p c => .next ((cancelSlot m s).goto (.ptStartArm m w p c))
  | .ptStartArm m w p c => .next ((armSlot m w p c s).goto (.ack .ptStart))
  | .ptStopCancel m => .next ((cancelSlot m s).goto (.ack .ptStop))
  | .pwmApply f d => .next ((pwmApply f d s).goto .idle)
  | .pwmHalt => .next ((pwmHalt s).goto (.ack .pwmStop))
  | .coordEval => .next (s.goto (coordNext s))
  | .enableIrq => .next (State.goto { s with diIrqEnabled := true } .startSelect)
  | .startSelect =>
    if s.configured then .next ((startSelect s).goto .startTrigger) else .refused .startUnconfigured
  | .startTrigger => .next ((startTrigger s).goto .startConvert)
  | .startConvert => .next ((startConvert s).goto .startDrain)
  | .startDrain => .next ((startDrain s).goto .enableDone)
  | .enableDone => .next (State.goto { s with coord := .active } .idle)
  | .disableIrq => .next (State.goto { s with diIrqEnabled := false } .stopDrain)
  | .stopDrain => .next ((cancelDrain s).goto .abortRequest)
  | .abortRequest => .next ((requestAborts s).goto .abortTest)
  | .abortTest => .next (s.goto (if abortsLanded s then .stopConvert else .abortRequest))
  | .stopConvert => .next ((stopConvert s).goto .stopFlush)
  | .stopFlush => .next ((stopFlush s).goto (.cancelSlots 0))
  | .cancelSlots m => .next ((cancelSlot m s).goto (if m = 255 then .disableDone else .cancelSlots (m + 1)))
  | .disableDone => .next (State.goto { s with coord := .inactive } .idle)

/-- The main loop's turn (R254): its next sub-step, unless the drain callback is in phase `Snap`. -/
def mainTurn (s : State) : Host.Outcome State Fault Refusal := if mainMayRun s then subStep s else .next s

end Sys2Proof.Machine
end

