-- ==== Sys2Proof/Machine/DigitalIo.lean ====
section
/-! DEFINITION. Digital outputs, digital inputs, refused writes and reads (43_digital_io.md). -/

namespace Sys2Proof.Machine

/-! ## Digital-output writes (R200): the store and the pins in one sub-step, then the acknowledgement -/

/-- WR_DO_SET sub-step 1 (R201). -/
def doSetStore (v : Byte) (s : State) : State :=
  { s with regs := { s.regs with doSet := v }, doPins := s.doPins ||| v, main := .ack .doSet }

/-- `WR_DO_SET` (R201): its first sub-step. -/
def execWrDoSet (v : Byte) (s : State) : Host.Outcome State Fault Refusal := guarded (mainFree s) (doSetStore v) s

/-- WR_DO_CLEAR sub-step 1 (R202). -/
def doClearStore (v : Byte) (s : State) : State :=
  { s with regs := { s.regs with doClear := v }, doPins := s.doPins &&& ~~~v, main := .ack .doClear }

/-- `WR_DO_CLEAR` (R202): its first sub-step. -/
def execWrDoClear (v : Byte) (s : State) : Host.Outcome State Fault Refusal := guarded (mainFree s) (doClearStore v) s

/-- WR_DO_TOGGLE sub-step 1 (R203). -/
def doToggleStore (v : Byte) (s : State) : State :=
  { s with regs := { s.regs with doToggle := v }, doPins := s.doPins ^^^ v, main := .ack .doToggle }

/-- `WR_DO_TOGGLE` (R203): its first sub-step. -/
def execWrDoToggle (v : Byte) (s : State) : Host.Outcome State Fault Refusal := guarded (mainFree s) (doToggleStore v) s

/-- WR_DO_STATE sub-step 1 (R204): storing the payload is writing the pins (R33). -/
def doStateStore (v : Byte) (s : State) : State := { s with doPins := v, main := .ack .doState }

/-- `WR_DO_STATE` (R204): its first sub-step. -/
def execWrDoState (v : Byte) (s : State) : Host.Outcome State Fault Refusal := guarded (mainFree s) (doStateStore v) s

/-! ## Refused writes (R97, R241): the error reply is the only sub-step and the payload is not stored -/

/-- `WR_DI_STATE` (R205). -/
def execWrDiState (_v : Byte) (s : State) : Host.Outcome State Fault Refusal :=
  guarded (mainFree s) (fun t => t.raise .diState .readOnly) s

/-- `WR_ANALOG` (R206). -/
def execWrAnalog (_v : Analog) (s : State) : Host.Outcome State Fault Refusal :=
  guarded (mainFree s) (fun t => t.raise .analog .readOnly) s

/-! ## Reads (R62, R94, R207 to R216): one atomic step each, without side effect -/

/-- A read of field `k` in the main loop (R94). -/
def readField (k : Field) (s : State) : Host.Outcome State Fault Refusal :=
  guarded (mainFree s) (fun t => t.replyRead k) s

/-- `RD_DI_STATE` (R207). -/
def execRdDiState (s : State) : Host.Outcome State Fault Refusal := readField .diState s

/-- `RD_DO_SET` (R208). -/
def execRdDoSet (s : State) : Host.Outcome State Fault Refusal := readField .doSet s

/-- `RD_DO_CLEAR` (R209). -/
def execRdDoClear (s : State) : Host.Outcome State Fault Refusal := readField .doClear s

/-- `RD_DO_TOGGLE` (R210). -/
def execRdDoToggle (s : State) : Host.Outcome State Fault Refusal := readField .doToggle s

/-- `RD_DO_STATE` (R211). -/
def execRdDoState (s : State) : Host.Outcome State Fault Refusal := readField .doState s

/-- `RD_PT_START` (R212). -/
def execRdPtStart (s : State) : Host.Outcome State Fault Refusal := readField .ptStart s

/-- `RD_PT_STOP` (R213). -/
def execRdPtStop (s : State) : Host.Outcome State Fault Refusal := readField .ptStop s

/-- `RD_ANALOG` (R214). -/
def execRdAnalog (s : State) : Host.Outcome State Fault Refusal := readField .analog s

/-- `RD_PWM_CFG` (R215), only with `HAS_PWM`. -/
def execRdPwmCfg (s : State) : Host.Outcome State Fault Refusal := pwmOnly s (readField .pwmCfg s)

/-- `RD_PWM_STOP` (R216), only with `HAS_PWM`. -/
def execRdPwmStop (s : State) : Host.Outcome State Fault Refusal := pwmOnly s (readField .pwmStop s)

/-! ## Digital inputs -/

/-- `DI_CHANGE(v)` (R217): the environment changes the inputs. An input that does not exist cannot change, so a `v` with
a bit at or above `N_DI` does not happen. -/
def execDiChange (v : Byte) (s : State) : Host.Outcome State Fault Refusal :=
  guarded (inputBitsExist s.cfg.nDi v) (fun t => { t with diPins := v }) s

/-- The effect of DI_EDGE (R218): the whole input byte is latched and reported. -/
def latchInputs (s : State) : State := State.notify { s with regs := { s.regs with diState := s.diPins } } .diState

/-- DI_EDGE's guard (R218). -/
def edgeEnabled (s : State) : Bool := s.diIrqEnabled && decide (s.diPins ≠ s.regs.diState) && irqFree s

/-- `DI_EDGE` (R218). -/
def execDiEdge (s : State) : Host.Outcome State Fault Refusal := guarded (edgeEnabled s) latchInputs s

end Sys2Proof.Machine
end

