-- ==== Sys2Proof/Machine/Platform.lean ====
section
/-! DEFINITION. Device time (60_exceptions.md rule R258) and the reset hook (70_reset_and_hazards.md rule R280). -/

namespace Sys2Proof.Machine

/-- `TICK_TIME(delta)` (R258): the only step that changes `now`. -/
def execTickTime (delta : Time) (s : State) : Host.Outcome State Fault Refusal :=
  guarded (timeMayAdvance s delta) (fun t => { t with now := t.now + delta }) s

/-- The register map after RESET (R280): every field zero, the PWM fields where the variant has them. -/
def RegMap.cleared (hasPwm : Bool) (r : RegMap) : RegMap :=
  if hasPwm then RegMap.zero else { RegMap.zero with pwmCfg := r.pwmCfg, pwmStop := r.pwmStop }

/-- The effect of RESET (R280), one atomic step without any reply. `now`, `buf`, `diPins`, `eventsEnabled`, `out` and
`configured` are not written. -/
def resetEngine (s : State) : State :=
  { s with
    slots := s.slots.map Slot.cancelled
    regs := s.regs.cleared s.cfg.hasPwm
    doPins := 0
    coord := .inactive
    diIrqEnabled := false
    adc := { running := false, rr := 0, fifo := [] }
    chA := { busy := false, idx := 0, abortReq := false }
    chB := { busy := false, abortReq := false }
    drain := { target := none, cb := .noCb }
    queue := []
    pwm := if s.cfg.hasPwm then Pwm.stopped else s.pwm }

/-- `RESET` (R280). -/
def execReset (s : State) : Host.Outcome State Fault Refusal := guarded (mainFree s) resetEngine s

end Sys2Proof.Machine
end

