-- ==== Sys2Proof/Machine/Dispatch.lean ====
section
/-! DEFINITION. One arm per operation of the table (30_encoding.md rule R95), each a call of its meaning. -/

namespace Sys2Proof.Machine

def exec (i : Instr) (s : State) : Host.Outcome State Fault Refusal :=
  match i with
  | .rdDiState => Sys2Proof.Machine.execRdDiState s
  | .rdDoSet => Sys2Proof.Machine.execRdDoSet s
  | .rdDoClear => Sys2Proof.Machine.execRdDoClear s
  | .rdDoToggle => Sys2Proof.Machine.execRdDoToggle s
  | .rdDoState => Sys2Proof.Machine.execRdDoState s
  | .rdPtStart => Sys2Proof.Machine.execRdPtStart s
  | .rdPtStop => Sys2Proof.Machine.execRdPtStop s
  | .rdAnalog => Sys2Proof.Machine.execRdAnalog s
  | .rdPwmCfg => Sys2Proof.Machine.execRdPwmCfg s
  | .rdPwmStop => Sys2Proof.Machine.execRdPwmStop s
  | .wrDiState v => Sys2Proof.Machine.execWrDiState v s
  | .wrDoSet v => Sys2Proof.Machine.execWrDoSet v s
  | .wrDoClear v => Sys2Proof.Machine.execWrDoClear v s
  | .wrDoToggle v => Sys2Proof.Machine.execWrDoToggle v s
  | .wrDoState v => Sys2Proof.Machine.execWrDoState v s
  | .wrPtStart p => Sys2Proof.Machine.execWrPtStart p s
  | .wrPtStop v => Sys2Proof.Machine.execWrPtStop v s
  | .wrAnalog v => Sys2Proof.Machine.execWrAnalog v s
  | .wrPwmCfg p => Sys2Proof.Machine.execWrPwmCfg p s
  | .wrPwmStop v => Sys2Proof.Machine.execWrPwmStop v s
  | .reset => Sys2Proof.Machine.execReset s
  | .update => Sys2Proof.Machine.execUpdate s
  | .setEventsEnabled b => Sys2Proof.Machine.execSetEventsEnabled b s
  | .configure => Sys2Proof.Machine.execConfigure s
  | .tickTime delta => Sys2Proof.Machine.execTickTime delta s
  | .ptFire m => Sys2Proof.Machine.execPtFire m s
  | .ptEnd m => Sys2Proof.Machine.execPtEnd m s
  | .adcConvert w => Sys2Proof.Machine.execAdcConvert w s
  | .dmaAXfer => Sys2Proof.Machine.execDmaAXfer s
  | .dmaBXfer => Sys2Proof.Machine.execDmaBXfer s
  | .dmaAbortLand x => Sys2Proof.Machine.execDmaAbortLand x s
  | .drainFire => Sys2Proof.Machine.execDrainFire s
  | .drainRead => Sys2Proof.Machine.execDrainRead s
  | .drainPush => Sys2Proof.Machine.execDrainPush s
  | .diChange v => Sys2Proof.Machine.execDiChange v s
  | .diEdge => Sys2Proof.Machine.execDiEdge s

end Sys2Proof.Machine
end

