-- ==== Sys2Proof/Machine/Fetch.lean ====
section
/-! DEFINITION. Where the next step comes from: the head of the schedule (00_scope.md rules R11, R12; 20_memory.md rule
R64). The engine fetches no instructions (R26); the schedule stands for the choice "which enabled step happens
next", which rule R49 says is not state of the engine (notes/assumptions/2.md). -/

namespace Sys2Proof.Machine

/-- What a turn is: the main loop's, an operation's, or no operation of the engine. -/
inductive Fetched where
  | mainLoop
  | operation (i : Instr)
  | noOperation (e : DecodeError)
  deriving DecidableEq, Repr

/-- What the head of the schedule says. An empty schedule gives the turn to the main loop, the one agent that goes on
by itself until its operation is done. -/
def fetch : List Turn → Fetched
  | [] => .mainLoop
  | .main :: _ => .mainLoop
  | .op frame :: _ =>
    match decode frame with
    | .ok i => .operation i
    | .error e => .noOperation e

/-- The state with the turn taken off the schedule. -/
def State.advance (s : State) : State := { s with sched := s.sched.tail }

/-- The state with a frame placed as the next turn. -/
def State.withFrame (s : State) (frame : List Byte) : State := { s with sched := .op frame :: s.sched }

end Sys2Proof.Machine
end

