-- ==== Sys2Proof/Machine/Step.lean ====
section
/-! DEFINITION. One step of the engine: the next turn of the schedule is taken (00_scope.md rules R11, R12). -/

namespace Sys2Proof.Machine

/-- One atomic step: the main loop's next sub-step, or the operation at the head of the schedule. -/
def step (s : State) : Host.Outcome State Fault Refusal :=
  match fetch s.sched with
  | .mainLoop => mainTurn s.advance
  | .operation i => exec i s.advance
  | .noOperation e => .refused (.notAnOperation e)

/-- `s` with the operation whose word is `w` placed as its next turn (notes/assumptions/2.md: an operation reaches the
engine from outside; this stands for that arrival). -/
def State.withFetchWord (s : State) (nbits w : Nat) : State := s.withFrame (tableFrame nbits w)

end Sys2Proof.Machine
end

