-- ==== Sys2Proof/Machine/ByteView.lean ====
section
/-! DEFINITION. The register map seen as bytes (20_memory.md rules R52, R55, R56; 00_scope.md rule R10): the fields one
after another in index order, packed, elements little-endian. It is a view of the typed fields: no operation
addresses the map by byte offset. -/

namespace Sys2Proof.Machine

/-- The byte offset of a field (R52). -/
def fieldOffset : Field → Nat
  | .diState => 0
  | .doSet => 1
  | .doClear => 2
  | .doToggle => 3
  | .doState => 4
  | .ptStart => 5
  | .ptStop => 21
  | .analog => 22
  | .pwmCfg => 28
  | .pwmStop => 36

/-- The bytes of a field's content, in payload order (R83). -/
def FieldValue.bytes : FieldValue → List Byte
  | .byte v => [v]
  | .ptStart p => p.bytes
  | .analog v => v.bytes
  | .pwmCfg p => p.bytes

/-- The fields the device has, in index order (R28, R99). -/
def fieldsOf (c : Config.Params) : List Field :=
  [.diState, .doSet, .doClear, .doToggle, .doState, .ptStart, .ptStop, .analog] ++
    (if c.hasPwm then [.pwmCfg, .pwmStop] else [])

/-- The register map as one block of bytes: 37 with `HAS_PWM`, 28 without (R52). -/
def byteView (s : State) : List Byte := (fieldsOf s.cfg).flatMap fun k => (fieldValue s k).bytes

/-- The byte at an offset of the block; none outside it. -/
def memByte (s : State) (addr : Nat) : Option Byte := (byteView s)[addr]?

/-- A little-endian number from its bytes, lowest first (R55). -/
def leNumber : List Byte → Nat
  | [] => 0
  | b :: rest => b.toNat + 256 * leNumber rest

/-- `MemRead(addr, n)` (R10): none where the bytes are not all in the block. -/
def memRead (s : State) (addr n : Nat) : Option Nat :=
  if addr + n ≤ (byteView s).length then some (leNumber (((byteView s).drop addr).take n)) else none

/-- The word at an offset of a block of bytes. -/
def wordAt (bs : List Byte) (i : Nat) : Word :=
  u32Le (bs.getD i 0) (bs.getD (i + 1) 0) (bs.getD (i + 2) 0) (bs.getD (i + 3) 0)

/-- The 16-bit element at an offset of a block of bytes. -/
def elementAt (bs : List Byte) (i : Nat) : Cell := u16Le (bs.getD i 0) (bs.getD (i + 1) 0)

/-- The state whose register map has the given block of bytes; the byte of `DO_STATE` is the pins (R33). -/
def State.withByteView (s : State) (bs : List Byte) : State :=
  { s with
    doPins := bs.getD 4 0
    regs :=
      { diState := bs.getD 0 0
        doSet := bs.getD 1 0
        doClear := bs.getD 2 0
        doToggle := bs.getD 3 0
        ptStart := ⟨wordAt bs 5, wordAt bs 9, wordAt bs 13, wordAt bs 17⟩
        ptStop := bs.getD 21 0
        analog := ⟨elementAt bs 22, elementAt bs 24, elementAt bs 26⟩
        pwmCfg := if s.cfg.hasPwm then ⟨wordAt bs 28, wordAt bs 32⟩ else s.regs.pwmCfg
        pwmStop := if s.cfg.hasPwm then bs.getD 36 0 else s.regs.pwmStop } }

/-- `MemWrite(addr, n, v)` (R10): the low `8n` bits of `v`, little-endian; none where the bytes are not all in the
block. -/
def memWrite (s : State) (addr n v : Nat) : Option State :=
  if addr + n ≤ (byteView s).length then
    some (s.withByteView ((byteView s).take addr ++ numBytes n v ++ (byteView s).drop (addr + n)))
  else none

/-- The fields an operation's first or only step stores to (the table of R65); `DO_STATE` stands for the pins. -/
def fieldsStored : Instr → List Field
  | .wrDoSet _ => [.doSet, .doState]
  | .wrDoClear _ => [.doClear, .doState]
  | .wrDoToggle _ => [.doToggle, .doState]
  | .wrDoState _ => [.doState]
  | .wrPtStart _ => [.ptStart]
  | .wrPtStop _ => [.ptStop]
  | .wrPwmCfg _ => [.pwmCfg]
  | .wrPwmStop _ => [.pwmStop]
  | .reset =>
    [.diState, .doSet, .doClear, .doToggle, .doState, .ptStart, .ptStop, .analog, .pwmCfg, .pwmStop]
  | .update => [.analog]
  | .ptFire _ => [.doSet, .doState]
  | .ptEnd _ => [.doClear, .doState, .ptStop]
  | .diEdge => [.diState]
  | .rdDiState | .rdDoSet | .rdDoClear | .rdDoToggle | .rdDoState | .rdPtStart | .rdPtStop | .rdAnalog
  | .rdPwmCfg | .rdPwmStop | .wrDiState _ | .wrAnalog _ | .setEventsEnabled _ | .configure
  | .tickTime _ | .adcConvert _ | .dmaAXfer | .dmaBXfer | .dmaAbortLand _
  | .drainFire | .drainRead | .drainPush | .diChange _ => []

/-! ## The block as cells -/

/-- The register block as (offset, byte) pairs. -/
def memCells (s : State) : List Host.Cell := (byteView s).zipIdx.map fun p => (p.2, p.1)

/-- The canonical form of a list of cells: offsets strictly rising. An unlisted offset reads as nothing, so no entry
can equal what an unlisted one reads as. -/
def Memory.wf : List Host.Cell → Bool
  | [] => true
  | [_] => true
  | c :: d :: rest => decide (c.1 < d.1) && Memory.wf (d :: rest)

end Sys2Proof.Machine
end

