-- ==== Sys2Proof/Machine/Schedule.lean ====
section
/-! DEFINITION. Sequences of turns: running several of them; the pseudo-operations `ROUND` and `RUN` of rule R101
(30_encoding.md), each an abbreviation of a sequence of operations; and runs of the machine, with the assumptions on
the schedule of rules R291, R298 and R313 (70_reset_and_hazards.md). -/

namespace Sys2Proof.Machine

/-- Go on from an outcome, if it is a next state. -/
def andThen (o : Host.Outcome State Fault Refusal) (f : State → Host.Outcome State Fault Refusal) :
    Host.Outcome State Fault Refusal :=
  match o with
  | .next s => f s
  | .fault r => .fault r
  | .refused r => .refused r

/-- The operations of a list, one after another, with nothing between them. -/
def execAll : List Instr → State → Host.Outcome State Fault Refusal
  | [], s => .next s
  | i :: rest, s => andThen (exec i s) (execAll rest)

/-- `k` turns of the main loop, with nothing between them. -/
def mainTurns : Nat → State → Host.Outcome State Fault Refusal
  | 0, s => .next s
  | k + 1, s => andThen (mainTurn s) (mainTurns k)

/-- An operation of the main loop and its next `k` sub-steps, with nothing between them. -/
def execThenTurns (i : Instr) (k : Nat) (s : State) : Host.Outcome State Fault Refusal :=
  andThen (exec i s) (mainTurns k)

/-- `ROUND v0 v1 v2` (R101): one conversion round with prompt transfers. -/
def roundOps (v0 v1 v2 : Cell) : List Instr :=
  [.adcConvert v0, .dmaAXfer, .adcConvert v1, .dmaAXfer, .adcConvert v2, .dmaAXfer, .dmaBXfer]

/-- The alarms of one slot with the operations that serve them, the periodic one first. -/
def slotAlarms (s : State) (m : Byte) : List (Time × List Instr) :=
  (s.slot m).periodic.toList.map (fun t => (t, [Instr.ptFire m])) ++
    (s.slot m).ends.head?.toList.map (fun t => (t, [Instr.ptEnd m]))

/-- A due drain callback run to its end (R101): the snapshot and the push follow only if it went in flight. -/
def drainOps (s : State) : List Instr :=
  if s.eventsEnabled then [.drainFire, .drainRead, .drainRead, .drainRead, .drainPush] else [.drainFire]

/-- Every armed alarm with the operations that serve it, in the order `RUN` breaks ties: by slot number, periodic before
end, the drain timer last (R101). -/
def alarmTable (s : State) : List (Time × List Instr) :=
  slotNumbers.flatMap (slotAlarms s) ++ s.drain.target.toList.map (fun t => (t, drainOps s))

/-- The entry with the oldest target, the first of equals. -/
def oldestAlarm : List (Time × List Instr) → Option (Time × List Instr)
  | [] => none
  | x :: rest =>
    match oldestAlarm rest with
    | some y => if y.1 < x.1 then some y else some x
    | none => some x

/-- What the punctual schedule does next on its way to time `t` (R101): serve the oldest due alarm, else let time pass to
the nearest target not after `t`, or to `t`; nothing once `t` is reached. -/
def punctualNext (t : Time) (s : State) : List Instr :=
  match oldestAlarm (alarmTable s) with
  | some (target, ops) =>
    if target ≤ s.now then ops
    else if s.now < t then [.tickTime ((if target ≤ t then target else t) - s.now)] else []
  | none => if s.now < t then [.tickTime (t - s.now)] else []

/-- `RUN t` (R101), at most `fuel` rounds of it. -/
def runUntil (t : Time) : Nat → State → Host.Outcome State Fault Refusal
  | 0, s => .next s
  | fuel + 1, s =>
    match punctualNext t s with
    | [] => .next s
    | i :: ops => andThen (execAll (i :: ops) s) (runUntil t fuel)

/-! ## A punctual train -/

/-- The events of one pulse of mask `m` that starts at `t` and has width `w`: started, then ended (R124). -/
def pulseEvents (m : Byte) (t : Time) (w : Word) : List Reply :=
  [.event .doSet t (.byte m), .event .doClear (t + BitVec.setWidth 64 w) (.byte m)]

/-- The wait of a pulse width; a width of zero takes no wait, because a TICK_TIME is of at least 1 (R120, R258). -/
def widthWait (w : Word) : List Instr := if w = 0 then [] else [.tickTime (BitVec.setWidth 64 w)]

/-- The operations of one pulse run punctually: the fire, the width, the end (R101). -/
def onePulseOps (m : Byte) (w : Word) : List Instr := .ptFire m :: widthWait w ++ [.ptEnd m]

/-- The operations of `n` pulses run punctually, the last one without the wait for a next start (R101, R127). -/
def pulseOps (m : Byte) (w p : Word) : Nat → List Instr
  | 0 => []
  | 1 => onePulseOps m w
  | n + 1 => onePulseOps m w ++ .tickTime (BitVec.setWidth 64 p - BitVec.setWidth 64 w) :: pulseOps m w p n

/-! ## Runs of the machine, and assumptions on the schedule

Three rules ask a model to take an assumption on the schedule: R291, R298 and R313 (70_reset_and_hazards.md). Each is a
predicate of a run, checked at every step against what a watcher remembers of the steps before it. No guard enforces one:
a claim takes it as its premise (notes/assumptions/20.md, 22.md, 23.md). -/

/-- `n` steps of the machine, each the next turn of the schedule. -/
def run : Nat → State → Host.Outcome State Fault Refusal
  | 0, s => .next s
  | n + 1, s => andThen (step s) (run n)

/-- Each of the next `n` steps from `s` passes the test `ok`, where `watch` brings what is remembered (`w` at first) up to
date with every step. -/
def alongRun {W : Type} (watch : W → State → W) (ok : W → State → Bool) : Nat → W → State → Bool
  | 0, _, _ => true
  | n + 1, w, s =>
    ok w s &&
      match step s with
      | .next t => alongRun watch ok n (watch w s) t
      | .fault _ => true
      | .refused _ => true

/-! ### A restart (R168, R298) -/

/-- The next step is startPipeline's first sub-step (R155). -/
def beginsPipeline (s : State) : Bool :=
  decide (fetch s.sched = .mainLoop) && decide (s.main = .startSelect) && mainMayRun s

/-- The next step is a DMA_A_XFER that happens: its guard holds (R144). -/
def takesTransferA (s : State) : Bool := decide (fetch s.sched = .operation .dmaAXfer) && transferAEnabled s

/-- The next step is a DRAIN_FIRE that happens: its guard holds (R158). -/
def takesDrainFire (s : State) : Bool := decide (fetch s.sched = .operation .drainFire) && drainFireEnabled s

/-- What a watcher of the run remembers for rule R298: `some k` from the latest startPipeline to the first DRAIN_FIRE
after it, with `k` the DMA_A_XFER steps in between so far; `none` when no such fire is outstanding. This is `w` after
the step that `s` takes next. -/
def watchRestart (w : Option Nat) (s : State) : Option Nat :=
  if beginsPipeline s then some 0
  else if takesDrainFire s then none
  else if takesTransferA s then w.map (· + 1)
  else w

/-- The next step is not the first DRAIN_FIRE after a startPipeline, or at least three DMA_A_XFER steps came between
(R298). -/
def firstFireIsFresh (w : Option Nat) (s : State) : Bool :=
  match w with
  | some k => !takesDrainFire s || decide (3 ≤ k)
  | none => true

/-- The assumption on the schedule that rule R298 asks a model to take, for the next `n` steps from `s`: "at least three
DMA_A_XFER steps happen between startPipeline and the first DRAIN_FIRE after it" (R168; notes/assumptions/20.md). -/
def restartsFresh : Nat → Option Nat → State → Bool := alongRun watchRestart firstFireIsFresh

/-! ### The channels keep up with the converter (R167, R291) -/

/-- The next step is an ADC_CONVERT that happens: its guard holds (R152). -/
def takesConvert (s : State) : Bool :=
  match fetch s.sched with
  | .operation (.adcConvert _) => s.adc.running
  | .operation _ | .mainLoop | .noOperation _ => false

/-- What the watcher of rule R291 remembers: an ADC_CONVERT has happened since the latest startPipeline. -/
def watchConvert (seen : Bool) (s : State) : Bool :=
  if beginsPipeline s then false else seen || takesConvert s

/-- The next step is not a second ADC_CONVERT, or every enabled transfer has been taken since the one before it: none is
enabled any more (R291). -/
def transfersTaken (seen : Bool) (s : State) : Bool :=
  !(seen && takesConvert s) || (!transferAEnabled s && !s.chB.busy)

/-- The assumption on the schedule of rule R291, for the next `n` steps from `s`: "between any two ADC_CONVERT steps,
every enabled DMA_A_XFER and DMA_B_XFER step has been taken" (notes/assumptions/22.md). -/
def channelsKeepUp : Nat → Bool → State → Bool := alongRun watchConvert transfersTaken

/-- The next step is not an ADC_CONVERT, or the result queue holds at most one word once it has happened: none waits
before it (R291). -/
def converterKeptUp (s : State) : Bool := !takesConvert s || s.adc.fifo.isEmpty

/-- The same assumption in the words that rule R291 calls equivalent: "`len(adc.fifo) <= 1` at every ADC_CONVERT"
(notes/assumptions/22.md). -/
def resultQueueShort (n : Nat) (s : State) : Bool := alongRun (fun _ _ => ()) (fun _ u => converterKeptUp u) n () s

/-! ### The main loop keeps up with the drain timer (R313) -/

/-- The next step is a DRAIN_PUSH that happens: its guard holds (R160). -/
def takesPush (s : State) : Bool := decide (fetch s.sched = .operation .drainPush) && drainPushEnabled s

/-- The next step is a popSample that happens: UPDATE's first sub-step (R162, R182). -/
def takesPop (s : State) : Bool := decide (fetch s.sched = .operation .update) && mainFree s

/-- What the watcher of rule R313 remembers: no DRAIN_PUSH has happened, or a popSample has since the latest. -/
def watchPop (popped : Bool) (s : State) : Bool := if takesPush s then false else popped || takesPop s

/-- The next step is not a DRAIN_PUSH, or a popSample came since the one before it (R313). -/
def pushAfterPop (popped : Bool) (s : State) : Bool := !takesPush s || popped

/-- The soft real-time assumption of rule R313, for the next `n` steps from `s`: "between any two DRAIN_PUSH steps the main
loop completes at least one popSample" (notes/assumptions/23.md). -/
def popsBetweenPushes : Nat → Bool → State → Bool := alongRun watchPop pushAfterPop

end Sys2Proof.Machine
end

