-- ==== Sys2Proof/Safety.lean ====
section
/-! DEFINITION. What a sound state of the engine is (10_state.md rules R24, R29, R36, R42, R46, R47; 41_sampling.md rules
R147, R155, R156), and the premises the spec lets a claim assume of a run (70_reset_and_hazards.md). -/

namespace Sys2Proof.Machine

/-! ## Guards (R12) -/

/-- The guard the spec gives each operation: the condition under which it may happen (R12). Host accesses and hooks need
a free main loop (R182, R254, R280); the guard of TICK_TIME is `timeMayAdvance` (R258). -/
def operationGuard (i : Instr) (s : State) : Prop :=
  match i with
  | .rdDiState | .rdDoSet | .rdDoClear | .rdDoToggle | .rdDoState | .rdPtStart | .rdPtStop | .rdAnalog
  | .rdPwmCfg | .rdPwmStop
  | .wrDiState _ | .wrDoSet _ | .wrDoClear _ | .wrDoToggle _ | .wrDoState _ | .wrPtStart _ | .wrPtStop _ | .wrAnalog _
  | .wrPwmCfg _ | .wrPwmStop _ | .reset | .update | .configure => s.main = .idle ∧ s.drain.cb.isSnap = false
  | .setEventsEnabled _ => True
  | .tickTime delta => timeMayAdvance s delta = true
  | .ptFire m => (∃ t, (s.slot m).periodic = some t ∧ t ≤ s.now) ∧ s.drain.cb = .noCb
  | .ptEnd m => (∃ t rest, (s.slot m).ends = t :: rest ∧ t ≤ s.now) ∧ s.drain.cb = .noCb
  | .adcConvert _ => s.adc.running = true
  | .dmaAXfer => s.chA.busy = true ∧ s.chA.idx < 3 ∧ s.adc.fifo ≠ []
  | .dmaBXfer => s.chB.busy = true
  | .dmaAbortLand .a => s.chA.abortReq = true
  | .dmaAbortLand .b => s.chB.abortReq = true
  | .drainFire => (∃ t, s.drain.target = some t ∧ t ≤ s.now) ∧ s.drain.cb = .noCb
  | .drainRead => s.drain.cb.isSnap = true
  | .drainPush => (∃ item, s.drain.cb = .push item) ∧ s.queue.length < 2 ∧ s.drain.target ≠ none
  | .diChange v => inputBitsExist s.cfg.nDi v = true
  | .diEdge => s.diIrqEnabled = true ∧ s.diPins ≠ s.regs.diState ∧ s.drain.cb = .noCb

/-! ## Slots (R24) -/

/-- Rule R24 (a) to (c) for slot `m`: a periodic target implies `active`; an idle slot has no alarm; an active slot's
mask is its index. -/
def slotSound (m : Byte) (x : Slot) : Bool :=
  (!x.periodic.isSome || x.active) && (x.active || (x.periodic.isNone && x.ends.isEmpty)) &&
  (!x.active || decide (x.outputMask = m))

/-- Rule R24 (a) to (c) for every slot. -/
def SlotsSound (s : State) : Prop := ∀ m : Byte, slotSound m (s.slot m) = true

/-- Times in non-decreasing order. -/
def timesSorted : List Time → Bool
  | [] => true
  | [_] => true
  | a :: b :: rest => decide (a ≤ b) && timesSorted (b :: rest)

/-- Rule R24 (d) for one slot, with what keeps it: no end alarm lies further ahead than one pulse width. -/
def endsSound (now : Time) (x : Slot) : Bool :=
  timesSorted x.ends && x.ends.all fun t => decide (t.toNat ≤ now.toNat + x.widthUs.toNat)

/-- Rule R24 (d) for every slot. -/
def EndsSound (s : State) : Prop := ∀ m : Byte, endsSound s.now (s.slot m) = true

/-! ## Fields and queues -/

/-- Bits `N_DI` to 7 of the inputs and of `DI_STATE` are zero (R29, R217). -/
def inputsSound (s : State) : Bool := inputBitsExist s.cfg.nDi s.diPins && inputBitsExist s.cfg.nDi s.regs.diState

/-- Every element of `ANALOG` is in 0 to 4095 (R36). -/
def analogSound (s : State) : Bool :=
  decide (s.regs.analog.ch0 < 4096) && decide (s.regs.analog.ch1 < 4096) && decide (s.regs.analog.ch2 < 4096)

/-- The two queues keep their bounds (R42, R46). -/
def queuesSound (s : State) : Bool :=
  decide (s.adc.fifo.length ≤ s.cfg.adcFifoDepth) && decide (s.queue.length ≤ Config.queueCap)

/-- The main loop is inside a PWM write that has not yet reached the generator (R221, R225). -/
def MainPos.isPwmStep : MainPos → Bool
  | .pwmApply _ _ | .pwmHalt => true
  | .idle | .ack _ | .ptStartCancel _ _ _ _ | .ptStartArm _ _ _ _ | .ptStopCancel _ | .coordEval | .enableIrq
  | .startSelect | .startTrigger | .startConvert | .startDrain | .enableDone | .disableIrq | .stopDrain
  | .abortRequest | .abortTest | .stopConvert | .stopFlush | .cancelSlots _ | .disableDone => false

/-- The latched duty of a PWM configuration under way is clamped (R222). -/
def MainPos.dutyClamped : MainPos → Bool
  | .pwmApply _ d => decide (d ≤ 100)
  | .idle | .ack _ | .ptStartCancel _ _ _ _ | .ptStartArm _ _ _ _ | .ptStopCancel _ | .pwmHalt | .coordEval
  | .enableIrq | .startSelect | .startTrigger | .startConvert | .startDrain | .enableDone | .disableIrq | .stopDrain
  | .abortRequest | .abortTest | .stopConvert | .stopFlush | .cancelSlots _ | .disableDone => true

/-- A running generator's level is at most its period (R47), and will be after the configuration under way. -/
def pwmSound (s : State) : Bool :=
  (!s.pwm.running || decide (s.pwm.level ≤ s.pwm.top)) && s.main.dutyClamped

/-- In a variant without PWM nothing of the generator is ever set (R226). -/
def pwmAbsent (s : State) : Bool :=
  s.cfg.hasPwm ||
  (decide (s.pwm = Pwm.stopped) && decide (s.regs.pwmCfg = ⟨0, 0⟩) && decide (s.regs.pwmStop = 0) &&
    !s.main.isPwmStep)

/-- The bounds above, together. -/
def dataSound (s : State) : Bool :=
  inputsSound s && analogSound s && queuesSound s && pwmSound s && pwmAbsent s

/-! ## The pipeline and the Coordinator -/

/-- Exactly one channel is busy and no abort is requested (R147). -/
def oneChannelBusy (s : State) : Bool := (s.chA.busy != s.chB.busy) && !s.chA.abortReq && !s.chB.abortReq

/-- The drain timer is unarmed and its callback is not in flight. -/
def drainOff (s : State) : Bool := s.drain.target.isNone && s.drain.cb.isNone

/-- Everything the Coordinator starts is off (R72, R156, R190). -/
def acquisitionOff (s : State) : Bool := pipelineStopped s && s.queue.isEmpty && !s.diIrqEnabled

/-- Everything the Coordinator starts is on (R147, R184). The drain timer may have cancelled itself (R165). -/
def acquisitionOn (s : State) : Bool := s.adc.running && oneChannelBusy s && s.diIrqEnabled

/-- The slots below number `n` are idle. -/
def slotsIdleBelow (s : State) (n : Nat) : Bool := (List.range n).all fun k => !(s.slot (BitVec.ofNat 8 k)).active

/-- Between its transitions the Coordinator's state says whether everything it starts is off or on. -/
def acquisitionAsCoord (s : State) : Bool :=
  match s.coord with
  | .inactive => acquisitionOff s
  | .active => acquisitionOn s

/-- What holds of the pipeline at each position of the main loop: between operations it is off or on as the Coordinator's
state says; inside a transition it is as far as the sub-steps of R155, R156, R184 and R185 have brought it. -/
def coordSound (s : State) : Bool :=
  match s.main with
  | .idle | .ack _ | .ptStartCancel _ _ _ _ | .ptStartArm _ _ _ _ | .ptStopCancel _ | .pwmApply _ _ | .pwmHalt
  | .coordEval => acquisitionAsCoord s
  | .enableIrq => decide (s.coord = .inactive) && acquisitionOff s
  | .startSelect | .startTrigger =>
    decide (s.coord = .inactive) && pipelineStopped s && s.queue.isEmpty && s.diIrqEnabled
  | .startConvert =>
    decide (s.coord = .inactive) && !s.adc.running && s.adc.fifo.isEmpty && oneChannelBusy s && drainOff s &&
      s.queue.isEmpty && s.diIrqEnabled
  | .startDrain =>
    decide (s.coord = .inactive) && acquisitionOn s && drainOff s && s.queue.isEmpty
  | .enableDone => decide (s.coord = .inactive) && acquisitionOn s
  | .disableIrq => decide (s.coord = .active) && acquisitionOn s
  | .stopDrain => decide (s.coord = .active) && s.adc.running && oneChannelBusy s && !s.diIrqEnabled
  | .abortRequest | .abortTest =>
    decide (s.coord = .active) && !(s.chA.busy && s.chB.busy) && drainOff s && !s.diIrqEnabled
  | .stopConvert => decide (s.coord = .active) && chanAIdle s && chanBIdle s && drainOff s && !s.diIrqEnabled
  | .stopFlush => decide (s.coord = .active) && pipelineStopped s && !s.diIrqEnabled
  | .cancelSlots m => decide (s.coord = .active) && acquisitionOff s && slotsIdleBelow s m.toNat
  | .disableDone => decide (s.coord = .active) && acquisitionOff s && slotsIdleBelow s 256

/-- Channel A is never busy with all three cells written (R44, R144), and a callback in flight has its timer armed
(R45, R160). -/
def channelsSound (s : State) : Bool :=
  (!s.chA.busy || decide (s.chA.idx < 3)) && (s.drain.cb.isNone || s.drain.target.isSome)

/-- The pipeline and the Coordinator agree. -/
def pipelineSound (s : State) : Bool := coordSound s && channelsSound s

/-! ## Premises of runs -/

/-- The launch premise of device time: no addition of a 32-bit duration wraps (R266, 92_eei_decisions.md D38). -/
def timeFar (s : State) : Bool := decide (s.now.toNat < 2 ^ 63)

/-- Non-overlapping pulses: `widthUs + JITTER_MAX_US < periodUs` (R285). -/
def noOverlap (jitter : Nat) (p : PtStart) : Bool := decide (p.widthUs.toNat + jitter < p.periodUs.toNat)

/-- The premise "the queue is never full at DRAIN_PUSH" of rule R288. Rule R313's assumption, `popsBetweenPushes`, gives it
and more: no item ever waits behind another. -/
def pushNeverBlocks (s : State) : Bool := !s.drain.cb.isPush || queueHasRoom s

/-- The drain period exceeds three conversions: the inequality of R298 between the two parameters, and the one use the
rules make of `ADC_CONV_PERIOD_US` (R7, R152). It constrains the device and bounds no run; the assumption on the schedule
that stands for it in claims is `restartsFresh`. -/
def drainSlowEnough (c : Config.Params) : Bool := decide (3 * c.adcConvPeriodUs < c.drainPeriodUs.toNat)

/-- The configuration means something to a real counter: `1 <= top <= PWM_TOP_MAX` (93_implementation_defined.md U6). -/
def pwmMeaningful (s : State) : Bool := decide (1 ≤ s.pwm.top) && decide (s.pwm.top ≤ s.cfg.pwmTopMax)

end Sys2Proof.Machine
end

