-- ==== Sys2Proof/Laws/State.lean ====
section
/-! SUPPORT. What each named update of the state leaves in each field: one lemma per field per update. -/

namespace Sys2Proof.Machine

variable (s : State)

/-! ## State.reply -/

@[simp] theorem State.reply_cfg (r : Reply) : (s.reply r).cfg = s.cfg := rfl
@[simp] theorem State.reply_sched (r : Reply) : (s.reply r).sched = s.sched := rfl
@[simp] theorem State.reply_main (r : Reply) : (s.reply r).main = s.main := rfl
@[simp] theorem State.reply_now (r : Reply) : (s.reply r).now = s.now := rfl
@[simp] theorem State.reply_slots (r : Reply) : (s.reply r).slots = s.slots := rfl
@[simp] theorem State.reply_regs (r : Reply) : (s.reply r).regs = s.regs := rfl
@[simp] theorem State.reply_doPins (r : Reply) : (s.reply r).doPins = s.doPins := rfl
@[simp] theorem State.reply_diPins (r : Reply) : (s.reply r).diPins = s.diPins := rfl
@[simp] theorem State.reply_eventsEnabled (r : Reply) : (s.reply r).eventsEnabled = s.eventsEnabled := rfl
@[simp] theorem State.reply_coord (r : Reply) : (s.reply r).coord = s.coord := rfl
@[simp] theorem State.reply_diIrqEnabled (r : Reply) : (s.reply r).diIrqEnabled = s.diIrqEnabled := rfl
@[simp] theorem State.reply_adc (r : Reply) : (s.reply r).adc = s.adc := rfl
@[simp] theorem State.reply_buf (r : Reply) : (s.reply r).buf = s.buf := rfl
@[simp] theorem State.reply_chA (r : Reply) : (s.reply r).chA = s.chA := rfl
@[simp] theorem State.reply_chB (r : Reply) : (s.reply r).chB = s.chB := rfl
@[simp] theorem State.reply_drain (r : Reply) : (s.reply r).drain = s.drain := rfl
@[simp] theorem State.reply_queue (r : Reply) : (s.reply r).queue = s.queue := rfl
@[simp] theorem State.reply_pwm (r : Reply) : (s.reply r).pwm = s.pwm := rfl
@[simp] theorem State.reply_out (r : Reply) : (s.reply r).out = s.out ++ [r] := rfl
@[simp] theorem State.reply_configured (r : Reply) : (s.reply r).configured = s.configured := rfl

/-! ## State.notify -/

@[simp] theorem State.notify_cfg (k : Field) : (s.notify k).cfg = s.cfg := rfl
@[simp] theorem State.notify_sched (k : Field) : (s.notify k).sched = s.sched := rfl
@[simp] theorem State.notify_main (k : Field) : (s.notify k).main = s.main := rfl
@[simp] theorem State.notify_now (k : Field) : (s.notify k).now = s.now := rfl
@[simp] theorem State.notify_slots (k : Field) : (s.notify k).slots = s.slots := rfl
@[simp] theorem State.notify_regs (k : Field) : (s.notify k).regs = s.regs := rfl
@[simp] theorem State.notify_doPins (k : Field) : (s.notify k).doPins = s.doPins := rfl
@[simp] theorem State.notify_diPins (k : Field) : (s.notify k).diPins = s.diPins := rfl
@[simp] theorem State.notify_eventsEnabled (k : Field) : (s.notify k).eventsEnabled = s.eventsEnabled := rfl
@[simp] theorem State.notify_coord (k : Field) : (s.notify k).coord = s.coord := rfl
@[simp] theorem State.notify_diIrqEnabled (k : Field) : (s.notify k).diIrqEnabled = s.diIrqEnabled := rfl
@[simp] theorem State.notify_adc (k : Field) : (s.notify k).adc = s.adc := rfl
@[simp] theorem State.notify_buf (k : Field) : (s.notify k).buf = s.buf := rfl
@[simp] theorem State.notify_chA (k : Field) : (s.notify k).chA = s.chA := rfl
@[simp] theorem State.notify_chB (k : Field) : (s.notify k).chB = s.chB := rfl
@[simp] theorem State.notify_drain (k : Field) : (s.notify k).drain = s.drain := rfl
@[simp] theorem State.notify_queue (k : Field) : (s.notify k).queue = s.queue := rfl
@[simp] theorem State.notify_pwm (k : Field) : (s.notify k).pwm = s.pwm := rfl
@[simp] theorem State.notify_out (k : Field) : (s.notify k).out = s.out ++ [.event k s.now (fieldValue s k)] := rfl
@[simp] theorem State.notify_configured (k : Field) : (s.notify k).configured = s.configured := rfl

/-! ## State.raise -/

@[simp] theorem State.raise_cfg (k : Field) (c : ErrorCode) : (s.raise k c).cfg = s.cfg := rfl
@[simp] theorem State.raise_sched (k : Field) (c : ErrorCode) : (s.raise k c).sched = s.sched := rfl
@[simp] theorem State.raise_main (k : Field) (c : ErrorCode) : (s.raise k c).main = s.main := rfl
@[simp] theorem State.raise_now (k : Field) (c : ErrorCode) : (s.raise k c).now = s.now := rfl
@[simp] theorem State.raise_slots (k : Field) (c : ErrorCode) : (s.raise k c).slots = s.slots := rfl
@[simp] theorem State.raise_regs (k : Field) (c : ErrorCode) : (s.raise k c).regs = s.regs := rfl
@[simp] theorem State.raise_doPins (k : Field) (c : ErrorCode) : (s.raise k c).doPins = s.doPins := rfl
@[simp] theorem State.raise_diPins (k : Field) (c : ErrorCode) : (s.raise k c).diPins = s.diPins := rfl
@[simp] theorem State.raise_eventsEnabled (k : Field) (c : ErrorCode) : (s.raise k c).eventsEnabled = s.eventsEnabled := rfl
@[simp] theorem State.raise_coord (k : Field) (c : ErrorCode) : (s.raise k c).coord = s.coord := rfl
@[simp] theorem State.raise_diIrqEnabled (k : Field) (c : ErrorCode) : (s.raise k c).diIrqEnabled = s.diIrqEnabled := rfl
@[simp] theorem State.raise_adc (k : Field) (c : ErrorCode) : (s.raise k c).adc = s.adc := rfl
@[simp] theorem State.raise_buf (k : Field) (c : ErrorCode) : (s.raise k c).buf = s.buf := rfl
@[simp] theorem State.raise_chA (k : Field) (c : ErrorCode) : (s.raise k c).chA = s.chA := rfl
@[simp] theorem State.raise_chB (k : Field) (c : ErrorCode) : (s.raise k c).chB = s.chB := rfl
@[simp] theorem State.raise_drain (k : Field) (c : ErrorCode) : (s.raise k c).drain = s.drain := rfl
@[simp] theorem State.raise_queue (k : Field) (c : ErrorCode) : (s.raise k c).queue = s.queue := rfl
@[simp] theorem State.raise_pwm (k : Field) (c : ErrorCode) : (s.raise k c).pwm = s.pwm := rfl
@[simp] theorem State.raise_out (k : Field) (c : ErrorCode) : (s.raise k c).out = s.out ++ [.writeError k c] := rfl
@[simp] theorem State.raise_configured (k : Field) (c : ErrorCode) : (s.raise k c).configured = s.configured := rfl

/-! ## State.replyRead -/

@[simp] theorem State.replyRead_cfg (k : Field) : (s.replyRead k).cfg = s.cfg := rfl
@[simp] theorem State.replyRead_sched (k : Field) : (s.replyRead k).sched = s.sched := rfl
@[simp] theorem State.replyRead_main (k : Field) : (s.replyRead k).main = s.main := rfl
@[simp] theorem State.replyRead_now (k : Field) : (s.replyRead k).now = s.now := rfl
@[simp] theorem State.replyRead_slots (k : Field) : (s.replyRead k).slots = s.slots := rfl
@[simp] theorem State.replyRead_regs (k : Field) : (s.replyRead k).regs = s.regs := rfl
@[simp] theorem State.replyRead_doPins (k : Field) : (s.replyRead k).doPins = s.doPins := rfl
@[simp] theorem State.replyRead_diPins (k : Field) : (s.replyRead k).diPins = s.diPins := rfl
@[simp] theorem State.replyRead_eventsEnabled (k : Field) : (s.replyRead k).eventsEnabled = s.eventsEnabled := rfl
@[simp] theorem State.replyRead_coord (k : Field) : (s.replyRead k).coord = s.coord := rfl
@[simp] theorem State.replyRead_diIrqEnabled (k : Field) : (s.replyRead k).diIrqEnabled = s.diIrqEnabled := rfl
@[simp] theorem State.replyRead_adc (k : Field) : (s.replyRead k).adc = s.adc := rfl
@[simp] theorem State.replyRead_buf (k : Field) : (s.replyRead k).buf = s.buf := rfl
@[simp] theorem State.replyRead_chA (k : Field) : (s.replyRead k).chA = s.chA := rfl
@[simp] theorem State.replyRead_chB (k : Field) : (s.replyRead k).chB = s.chB := rfl
@[simp] theorem State.replyRead_drain (k : Field) : (s.replyRead k).drain = s.drain := rfl
@[simp] theorem State.replyRead_queue (k : Field) : (s.replyRead k).queue = s.queue := rfl
@[simp] theorem State.replyRead_pwm (k : Field) : (s.replyRead k).pwm = s.pwm := rfl
@[simp] theorem State.replyRead_out (k : Field) : (s.replyRead k).out = s.out ++ [.readReply k (fieldValue s k)] := rfl
@[simp] theorem State.replyRead_configured (k : Field) : (s.replyRead k).configured = s.configured := rfl

/-! ## State.goto -/

@[simp] theorem State.goto_cfg (p : MainPos) : (s.goto p).cfg = s.cfg := rfl
@[simp] theorem State.goto_sched (p : MainPos) : (s.goto p).sched = s.sched := rfl
@[simp] theorem State.goto_main (p : MainPos) : (s.goto p).main = p := rfl
@[simp] theorem State.goto_now (p : MainPos) : (s.goto p).now = s.now := rfl
@[simp] theorem State.goto_slots (p : MainPos) : (s.goto p).slots = s.slots := rfl
@[simp] theorem State.goto_regs (p : MainPos) : (s.goto p).regs = s.regs := rfl
@[simp] theorem State.goto_doPins (p : MainPos) : (s.goto p).doPins = s.doPins := rfl
@[simp] theorem State.goto_diPins (p : MainPos) : (s.goto p).diPins = s.diPins := rfl
@[simp] theorem State.goto_eventsEnabled (p : MainPos) : (s.goto p).eventsEnabled = s.eventsEnabled := rfl
@[simp] theorem State.goto_coord (p : MainPos) : (s.goto p).coord = s.coord := rfl
@[simp] theorem State.goto_diIrqEnabled (p : MainPos) : (s.goto p).diIrqEnabled = s.diIrqEnabled := rfl
@[simp] theorem State.goto_adc (p : MainPos) : (s.goto p).adc = s.adc := rfl
@[simp] theorem State.goto_buf (p : MainPos) : (s.goto p).buf = s.buf := rfl
@[simp] theorem State.goto_chA (p : MainPos) : (s.goto p).chA = s.chA := rfl
@[simp] theorem State.goto_chB (p : MainPos) : (s.goto p).chB = s.chB := rfl
@[simp] theorem State.goto_drain (p : MainPos) : (s.goto p).drain = s.drain := rfl
@[simp] theorem State.goto_queue (p : MainPos) : (s.goto p).queue = s.queue := rfl
@[simp] theorem State.goto_pwm (p : MainPos) : (s.goto p).pwm = s.pwm := rfl
@[simp] theorem State.goto_out (p : MainPos) : (s.goto p).out = s.out := rfl
@[simp] theorem State.goto_configured (p : MainPos) : (s.goto p).configured = s.configured := rfl

/-! ## State.setSlot -/

@[simp] theorem State.setSlot_cfg (m : Byte) (x : Slot) : (s.setSlot m x).cfg = s.cfg := rfl
@[simp] theorem State.setSlot_sched (m : Byte) (x : Slot) : (s.setSlot m x).sched = s.sched := rfl
@[simp] theorem State.setSlot_main (m : Byte) (x : Slot) : (s.setSlot m x).main = s.main := rfl
@[simp] theorem State.setSlot_now (m : Byte) (x : Slot) : (s.setSlot m x).now = s.now := rfl
@[simp] theorem State.setSlot_regs (m : Byte) (x : Slot) : (s.setSlot m x).regs = s.regs := rfl
@[simp] theorem State.setSlot_doPins (m : Byte) (x : Slot) : (s.setSlot m x).doPins = s.doPins := rfl
@[simp] theorem State.setSlot_diPins (m : Byte) (x : Slot) : (s.setSlot m x).diPins = s.diPins := rfl
@[simp] theorem State.setSlot_eventsEnabled (m : Byte) (x : Slot) : (s.setSlot m x).eventsEnabled = s.eventsEnabled := rfl
@[simp] theorem State.setSlot_coord (m : Byte) (x : Slot) : (s.setSlot m x).coord = s.coord := rfl
@[simp] theorem State.setSlot_diIrqEnabled (m : Byte) (x : Slot) : (s.setSlot m x).diIrqEnabled = s.diIrqEnabled := rfl
@[simp] theorem State.setSlot_adc (m : Byte) (x : Slot) : (s.setSlot m x).adc = s.adc := rfl
@[simp] theorem State.setSlot_buf (m : Byte) (x : Slot) : (s.setSlot m x).buf = s.buf := rfl
@[simp] theorem State.setSlot_chA (m : Byte) (x : Slot) : (s.setSlot m x).chA = s.chA := rfl
@[simp] theorem State.setSlot_chB (m : Byte) (x : Slot) : (s.setSlot m x).chB = s.chB := rfl
@[simp] theorem State.setSlot_drain (m : Byte) (x : Slot) : (s.setSlot m x).drain = s.drain := rfl
@[simp] theorem State.setSlot_queue (m : Byte) (x : Slot) : (s.setSlot m x).queue = s.queue := rfl
@[simp] theorem State.setSlot_pwm (m : Byte) (x : Slot) : (s.setSlot m x).pwm = s.pwm := rfl
@[simp] theorem State.setSlot_out (m : Byte) (x : Slot) : (s.setSlot m x).out = s.out := rfl
@[simp] theorem State.setSlot_configured (m : Byte) (x : Slot) : (s.setSlot m x).configured = s.configured := rfl

/-! ## State.advance -/

@[simp] theorem State.advance_cfg : (s.advance).cfg = s.cfg := rfl
@[simp] theorem State.advance_sched : (s.advance).sched = s.sched.tail := rfl
@[simp] theorem State.advance_main : (s.advance).main = s.main := rfl
@[simp] theorem State.advance_now : (s.advance).now = s.now := rfl
@[simp] theorem State.advance_slots : (s.advance).slots = s.slots := rfl
@[simp] theorem State.advance_regs : (s.advance).regs = s.regs := rfl
@[simp] theorem State.advance_doPins : (s.advance).doPins = s.doPins := rfl
@[simp] theorem State.advance_diPins : (s.advance).diPins = s.diPins := rfl
@[simp] theorem State.advance_eventsEnabled : (s.advance).eventsEnabled = s.eventsEnabled := rfl
@[simp] theorem State.advance_coord : (s.advance).coord = s.coord := rfl
@[simp] theorem State.advance_diIrqEnabled : (s.advance).diIrqEnabled = s.diIrqEnabled := rfl
@[simp] theorem State.advance_adc : (s.advance).adc = s.adc := rfl
@[simp] theorem State.advance_buf : (s.advance).buf = s.buf := rfl
@[simp] theorem State.advance_chA : (s.advance).chA = s.chA := rfl
@[simp] theorem State.advance_chB : (s.advance).chB = s.chB := rfl
@[simp] theorem State.advance_drain : (s.advance).drain = s.drain := rfl
@[simp] theorem State.advance_queue : (s.advance).queue = s.queue := rfl
@[simp] theorem State.advance_pwm : (s.advance).pwm = s.pwm := rfl
@[simp] theorem State.advance_out : (s.advance).out = s.out := rfl
@[simp] theorem State.advance_configured : (s.advance).configured = s.configured := rfl

/-! ## State.withFrame -/

@[simp] theorem State.withFrame_cfg (f : List Byte) : (s.withFrame f).cfg = s.cfg := rfl
@[simp] theorem State.withFrame_sched (f : List Byte) : (s.withFrame f).sched = .op f :: s.sched := rfl
@[simp] theorem State.withFrame_main (f : List Byte) : (s.withFrame f).main = s.main := rfl
@[simp] theorem State.withFrame_now (f : List Byte) : (s.withFrame f).now = s.now := rfl
@[simp] theorem State.withFrame_slots (f : List Byte) : (s.withFrame f).slots = s.slots := rfl
@[simp] theorem State.withFrame_regs (f : List Byte) : (s.withFrame f).regs = s.regs := rfl
@[simp] theorem State.withFrame_doPins (f : List Byte) : (s.withFrame f).doPins = s.doPins := rfl
@[simp] theorem State.withFrame_diPins (f : List Byte) : (s.withFrame f).diPins = s.diPins := rfl
@[simp] theorem State.withFrame_eventsEnabled (f : List Byte) : (s.withFrame f).eventsEnabled = s.eventsEnabled := rfl
@[simp] theorem State.withFrame_coord (f : List Byte) : (s.withFrame f).coord = s.coord := rfl
@[simp] theorem State.withFrame_diIrqEnabled (f : List Byte) : (s.withFrame f).diIrqEnabled = s.diIrqEnabled := rfl
@[simp] theorem State.withFrame_adc (f : List Byte) : (s.withFrame f).adc = s.adc := rfl
@[simp] theorem State.withFrame_buf (f : List Byte) : (s.withFrame f).buf = s.buf := rfl
@[simp] theorem State.withFrame_chA (f : List Byte) : (s.withFrame f).chA = s.chA := rfl
@[simp] theorem State.withFrame_chB (f : List Byte) : (s.withFrame f).chB = s.chB := rfl
@[simp] theorem State.withFrame_drain (f : List Byte) : (s.withFrame f).drain = s.drain := rfl
@[simp] theorem State.withFrame_queue (f : List Byte) : (s.withFrame f).queue = s.queue := rfl
@[simp] theorem State.withFrame_pwm (f : List Byte) : (s.withFrame f).pwm = s.pwm := rfl
@[simp] theorem State.withFrame_out (f : List Byte) : (s.withFrame f).out = s.out := rfl
@[simp] theorem State.withFrame_configured (f : List Byte) : (s.withFrame f).configured = s.configured := rfl

/-! ## The slot pool -/

@[simp] theorem State.setSlot_slots (m : Byte) (x : Slot) : (s.setSlot m x).slots = s.poolWith m x := rfl

/-- Reading the slot just written. -/
@[simp] theorem State.slot_setSlot_same (m : Byte) (x : Slot) : (s.setSlot m x).slot m = x := by
  simp [State.slot, State.setSlot, State.poolWith]

/-- Writing one slot leaves the others. -/
theorem State.slot_setSlot_other {m n : Byte} (h : n ≠ m) (x : Slot) : (s.setSlot m x).slot n = s.slot n := by
  have hv : m.toNat ≠ n.toNat := fun e => h (BitVec.eq_of_toNat_eq e.symm)
  simp [State.slot, State.setSlot, State.poolWith, Vector.getElem_set_ne, hv]

/-- Reading any slot after writing one. -/
theorem State.slot_setSlot (m n : Byte) (x : Slot) : (s.setSlot m x).slot n = if n = m then x else s.slot n := by
  split
  · next h => subst h; exact State.slot_setSlot_same s n x
  · next h => exact State.slot_setSlot_other s h x

/-- Two slot pools that agree at every slot number are equal. -/
theorem slots_ext {s t : State} (h : ∀ m : Byte, s.slot m = t.slot m) : s.slots = t.slots := by
  apply Vector.ext
  intro i hi
  have := h (BitVec.ofNat 8 i)
  simpa [State.slot, BitVec.toNat_ofNat, Nat.mod_eq_of_lt hi] using this

/-- A slot depends on nothing but the pool. -/
theorem State.slot_congr {s t : State} (h : s.slots = t.slots) (m : Byte) : s.slot m = t.slot m := by
  simp [State.slot, h]

/-- Reading any slot of a state whose pool is another's with one slot replaced. -/
theorem State.slot_of_poolWith {s t : State} {m : Byte} {x : Slot} (h : t.slots = s.poolWith m x) (n : Byte) :
    t.slot n = if n = m then x else s.slot n := by
  rw [← State.slot_setSlot s m n x]
  exact State.slot_congr (by simpa using h) n

/-- Replacing a slot twice is replacing it once. -/
theorem State.poolWith_poolWith {s t : State} {m : Byte} {x : Slot} (h : t.slots = s.poolWith m x) (y : Slot) :
    t.poolWith m y = s.poolWith m y := by
  simp [State.poolWith, h]

/-- Replacing a slot by itself changes nothing. -/
theorem State.poolWith_self (m : Byte) : s.poolWith m (s.slot m) = s.slots := by
  simp [State.poolWith, State.slot]

@[simp] theorem State.slot_reply (r : Reply) (m : Byte) : (s.reply r).slot m = s.slot m := rfl
@[simp] theorem State.slot_notify (k : Field) (m : Byte) : (s.notify k).slot m = s.slot m := rfl
@[simp] theorem State.slot_goto (p : MainPos) (m : Byte) : (s.goto p).slot m = s.slot m := rfl
@[simp] theorem State.slot_advance (m : Byte) : s.advance.slot m = s.slot m := rfl

end Sys2Proof.Machine
end

