-- ==== Sys2Proof/Laws/Ops.lean ====
section
/-! SUPPORT. For each shared operation, what it does, said once: guards, alarms, cancelSlot and armSlot, one step of the
machine, bytes, and the register block as cells. -/

namespace Sys2Proof.Machine

/-! ## Guarded steps -/

@[simp] theorem guarded_of_true {g : Bool} (h : g = true) (f : State → State) (s : State) :
    guarded g f s = .next (f s) := by simp [guarded, h]

@[simp] theorem guarded_of_false {g : Bool} (h : g = false) (f : State → State) (s : State) :
    guarded g f s = .next s := by simp [guarded, h]

/-- A guarded step answers a next state, and only one of two. -/
theorem guarded_next {g : Bool} {f : State → State} {s t : State} (h : guarded g f s = .next t) :
    (g = true ∧ t = f s) ∨ (g = false ∧ t = s) := by
  cases g <;> simp_all [guarded]

/-- A step of a PWM operation answers a next state only in a variant with PWM. -/
theorem pwmOnly_next {s t : State} {o : Host.Outcome State Fault Refusal} (h : pwmOnly s o = .next t) :
    s.cfg.hasPwm = true ∧ o = .next t := by
  unfold pwmOnly at h
  split at h
  · exact ⟨‹_›, h⟩
  · cases h

theorem mainMayRun_iff (s : State) : mainMayRun s = true ↔ s.drain.cb.isSnap = false := by
  simp [mainMayRun]

theorem mainFree_iff (s : State) : mainFree s = true ↔ s.main = .idle ∧ s.drain.cb.isSnap = false := by
  simp [mainFree, mainMayRun, MainPos.isIdle]

theorem irqFree_iff (s : State) : irqFree s = true ↔ s.drain.cb = .noCb := by
  unfold irqFree DrainCb.isNone
  cases s.drain.cb <;> simp

/-! ## Alarms -/

theorem due_iff (target : Option Time) (now : Time) : due target now = true ↔ ∃ t, target = some t ∧ t ≤ now := by
  cases target <;> simp [due]

/-- A duration widened to 64 bits is zero only when it is zero. -/
theorem durationOf_eq_zero (p : Word) : durationOf p = 0 ↔ p = 0 := by
  constructor
  · intro h
    have h2 : (durationOf p).toNat = 0 := by rw [h]; rfl
    rw [durationOf, BitVec.toNat_setWidth_of_le (by decide)] at h2
    exact BitVec.eq_of_toNat_eq h2
  · intro h; subst h; rfl

/-- The negative of a duration is negative, unless it is zero (R13 (b)). -/
theorem neg_durationOf_slt {p : Word} (h : p ≠ 0) : (0 - durationOf p).slt 0 = true := by
  have hd : (durationOf p).toNat = p.toNat := BitVec.toNat_setWidth_of_le (by decide)
  have hp : p.toNat ≠ 0 := fun e => h (BitVec.eq_of_toNat_eq e)
  have hlt := p.isLt
  have hs : (0 - durationOf p).toNat = 2 ^ 64 - p.toNat := by
    rw [BitVec.toNat_sub, hd]
    show (2 ^ 64 - p.toNat + 0) % 2 ^ 64 = 2 ^ 64 - p.toNat
    omega
  have hz : (0 : Time).toInt = 0 := rfl
  have hi : (0 - durationOf p).toInt < 0 := by
    rw [BitVec.toInt_eq_toNat_cond, hs]
    split <;> omega
  simpa [BitVec.slt, hz] using hi

/-- What the delay PT_FIRE computes makes of its alarm: repeat from the scheduled time, except on the sentinel. -/
theorem nextTarget_neg_duration (now target : Time) (p : Word) :
    nextTarget now target (0 - durationOf p) = if p = 0 then none else some (target + durationOf p) := by
  by_cases h : p = 0
  · subst h; rfl
  · have hne : ¬ (0 - durationOf p = 0) := by
      intro e
      have := neg_durationOf_slt h
      rw [e] at this
      exact absurd this (by decide)
    rw [nextTarget, if_neg hne, if_pos (neg_durationOf_slt h), if_neg h]
    simp [BitVec.sub_eq_add_neg]

@[simp] theorem nextTarget_zero (now target : Time) : nextTarget now target 0#64 = none := rfl

/-- The armed alarms, as rule R258 lists them. -/
theorem mem_armedTargets (s : State) (a : Time) :
    a ∈ armedTargets s ↔
      (∃ m : Byte, (s.slot m).periodic = some a ∨ a ∈ (s.slot m).ends) ∨ s.drain.target = some a := by
  simp only [armedTargets, List.mem_append, List.mem_flatMap, Option.mem_toList, Vector.mem_toList_iff]
  constructor
  · rintro (⟨x, hx, h⟩ | h)
    · obtain ⟨i, hi, rfl⟩ := Vector.getElem_of_mem hx
      refine .inl ⟨BitVec.ofNat 8 i, ?_⟩
      simpa [State.slot, BitVec.toNat_ofNat, Nat.mod_eq_of_lt hi] using h
    · exact .inr h
  · rintro (⟨m, h⟩ | h)
    · exact .inl ⟨s.slot m, Vector.getElem_mem _, h⟩
    · exact .inr h

/-! ## cancelSlot and armSlot (R111, R112) -/

/-- On an idle slot cancelSlot does nothing. -/
theorem cancelSlot_of_idle {m : Byte} {s : State} (h : (s.slot m).active = false) : cancelSlot m s = s := by
  simp [cancelSlot, h]

/-- On an active slot it clears the slot, stores the mask in `PT_STOP` and raises one event. -/
theorem cancelSlot_of_active {m : Byte} {s : State} (h : (s.slot m).active = true) :
    cancelSlot m s =
      { s with
        slots := s.poolWith m { s.slot m with active := false, periodic := none, ends := [] }
        regs := { s.regs with ptStop := (s.slot m).outputMask }
        out := s.out ++ [.event .ptStop s.now (.byte (s.slot m).outputMask)] } := by
  simp only [cancelSlot, h, if_true]
  rfl

/-- Everything cancelSlot can do. -/
theorem cancelSlot_cases (m : Byte) (s : State) :
    ((s.slot m).active = false ∧ cancelSlot m s = s) ∨
    ((s.slot m).active = true ∧
      cancelSlot m s =
        { s with
          slots := s.poolWith m { s.slot m with active := false, periodic := none, ends := [] }
          regs := { s.regs with ptStop := (s.slot m).outputMask }
          out := s.out ++ [.event .ptStop s.now (.byte (s.slot m).outputMask)] }) := by
  cases h : (s.slot m).active
  · exact .inl ⟨rfl, cancelSlot_of_idle h⟩
  · exact .inr ⟨rfl, cancelSlot_of_active h⟩

/-- The slots after cancelSlot. -/
theorem slot_cancelSlot (m n : Byte) (s : State) :
    (cancelSlot m s).slot n = if n = m ∧ (s.slot m).active = true then (s.slot m).cancelled else s.slot n := by
  rcases cancelSlot_cases m s with ⟨h, e⟩ | ⟨h, e⟩
  · simp [e, h]
  · have := State.slot_of_poolWith (s := s) (t := cancelSlot m s) (m := m) (x := (s.slot m).cancelled) (by rw [e]; rfl) n
    simp only [h, and_true]
    exact this

@[simp] theorem cancelSlot_doPins (m : Byte) (s : State) : (cancelSlot m s).doPins = s.doPins := by
  unfold cancelSlot; split <;> rfl
@[simp] theorem cancelSlot_now (m : Byte) (s : State) : (cancelSlot m s).now = s.now := by
  unfold cancelSlot; split <;> rfl
@[simp] theorem cancelSlot_main (m : Byte) (s : State) : (cancelSlot m s).main = s.main := by
  unfold cancelSlot; split <;> rfl
@[simp] theorem cancelSlot_cfg (m : Byte) (s : State) : (cancelSlot m s).cfg = s.cfg := by
  unfold cancelSlot; split <;> rfl
@[simp] theorem cancelSlot_sched (m : Byte) (s : State) : (cancelSlot m s).sched = s.sched := by
  unfold cancelSlot; split <;> rfl
@[simp] theorem cancelSlot_drain (m : Byte) (s : State) : (cancelSlot m s).drain = s.drain := by
  unfold cancelSlot; split <;> rfl
@[simp] theorem cancelSlot_queue (m : Byte) (s : State) : (cancelSlot m s).queue = s.queue := by
  unfold cancelSlot; split <;> rfl
@[simp] theorem cancelSlot_adc (m : Byte) (s : State) : (cancelSlot m s).adc = s.adc := by
  unfold cancelSlot; split <;> rfl
@[simp] theorem cancelSlot_buf (m : Byte) (s : State) : (cancelSlot m s).buf = s.buf := by
  unfold cancelSlot; split <;> rfl
@[simp] theorem cancelSlot_chA (m : Byte) (s : State) : (cancelSlot m s).chA = s.chA := by
  unfold cancelSlot; split <;> rfl
@[simp] theorem cancelSlot_chB (m : Byte) (s : State) : (cancelSlot m s).chB = s.chB := by
  unfold cancelSlot; split <;> rfl
@[simp] theorem cancelSlot_coord (m : Byte) (s : State) : (cancelSlot m s).coord = s.coord := by
  unfold cancelSlot; split <;> rfl
@[simp] theorem cancelSlot_diIrqEnabled (m : Byte) (s : State) : (cancelSlot m s).diIrqEnabled = s.diIrqEnabled := by
  unfold cancelSlot; split <;> rfl
@[simp] theorem cancelSlot_diPins (m : Byte) (s : State) : (cancelSlot m s).diPins = s.diPins := by
  unfold cancelSlot; split <;> rfl
@[simp] theorem cancelSlot_eventsEnabled (m : Byte) (s : State) :
    (cancelSlot m s).eventsEnabled = s.eventsEnabled := by
  unfold cancelSlot; split <;> rfl
@[simp] theorem cancelSlot_pwm (m : Byte) (s : State) : (cancelSlot m s).pwm = s.pwm := by
  unfold cancelSlot; split <;> rfl
@[simp] theorem cancelSlot_configured (m : Byte) (s : State) : (cancelSlot m s).configured = s.configured := by
  unfold cancelSlot; split <;> rfl

/-- Only `PT_STOP` of the register map can change in cancelSlot. -/
theorem cancelSlot_regs (m : Byte) (s : State) :
    (cancelSlot m s).regs =
      { s.regs with ptStop := if (s.slot m).active then (s.slot m).outputMask else s.regs.ptStop } := by
  rcases cancelSlot_cases m s with ⟨h, e⟩ | ⟨h, e⟩ <;> rw [e] <;> simp [h]

/-- The reply of cancelSlot: one "train stopped" of an active slot, nothing of an idle one. -/
theorem cancelSlot_out (m : Byte) (s : State) :
    (cancelSlot m s).out =
      s.out ++ (if (s.slot m).active then [.event .ptStop s.now (.byte (s.slot m).outputMask)] else []) := by
  rcases cancelSlot_cases m s with ⟨h, e⟩ | ⟨h, e⟩ <;> rw [e] <;> simp [h]

/-- The slots after armSlot. -/
theorem slot_armSlot (m n : Byte) (w p c : Word) (s : State) :
    (armSlot m w p c s).slot n =
      if n = m then
        { outputMask := m, widthUs := w, periodUs := p, remaining := c, active := true, periodic := some s.now,
          nextDelay := 0, ends := [] }
      else s.slot n := State.slot_setSlot s m n _

/-- armSlot writes nothing but the slot. -/
theorem armSlot_eq (m : Byte) (w p c : Word) (s : State) :
    armSlot m w p c s = { s with slots := (armSlot m w p c s).slots } := rfl

/-! ## One step -/

/-- Everything one step that answers a next state can be: a turn of the main loop, or an operation. -/
theorem step_next {s t : State} (h : step s = .next t) :
    mainTurn s.advance = .next t ∨
    ∃ frame rest i, s.sched = .op frame :: rest ∧ decode frame = .ok i ∧ exec i { s with sched := rest } = .next t := by
  unfold step at h
  cases hs : s.sched with
  | nil => rw [hs] at h; exact .inl h
  | cons turn rest =>
    have ha : s.advance = { s with sched := rest } := by simp [State.advance, hs]
    cases turn with
    | main => rw [hs] at h; exact .inl h
    | op frame =>
      simp only [hs, fetch] at h
      cases hd : decode frame with
      | ok i =>
        simp only [hd] at h
        exact .inr ⟨frame, rest, i, rfl, hd, by rw [← ha]; exact h⟩
      | error e => simp [hd] at h

/-- A turn of the main loop that answers a next state is a held turn or a sub-step. -/
theorem mainTurn_next {s t : State} (h : mainTurn s = .next t) :
    (mainMayRun s = false ∧ t = s) ∨ (mainMayRun s = true ∧ subStep s = .next t) := by
  unfold mainTurn at h
  split at h
  · next hm => exact .inr ⟨hm, h⟩
  · next hm => cases h; exact .inl ⟨by simpa using hm, rfl⟩

@[simp] theorem andThen_next (s : State) (f : State → Host.Outcome State Fault Refusal) :
    andThen (.next s) f = f s := rfl

@[simp] theorem andThen_refused (r : Refusal) (f : State → Host.Outcome State Fault Refusal) :
    andThen (.refused r) f = .refused r := rfl

/-! ## Bytes -/

theorem u16Le_bytes (x : Cell) : u16Le (byteOf x 0) (byteOf x 1) = x := by
  apply BitVec.eq_of_getLsbD_eq
  intro i hi
  simp only [u16Le, byteOf, BitVec.getLsbD_append, BitVec.getLsbD_extractLsb']
  grind

theorem u32Le_bytes (x : Word) : u32Le (byteOf x 0) (byteOf x 1) (byteOf x 2) (byteOf x 3) = x := by
  apply BitVec.eq_of_getLsbD_eq
  intro i hi
  simp only [u32Le, byteOf, BitVec.getLsbD_append, BitVec.getLsbD_extractLsb']
  grind

theorem u64Le_bytes (x : Time) :
    u64Le (byteOf x 0) (byteOf x 1) (byteOf x 2) (byteOf x 3) (byteOf x 4) (byteOf x 5) (byteOf x 6) (byteOf x 7) =
      x := by
  apply BitVec.eq_of_getLsbD_eq
  intro i hi
  simp only [u64Le, byteOf, BitVec.getLsbD_append, BitVec.getLsbD_extractLsb']
  grind

theorem bytes2_u16Le (b0 b1 : Byte) : bytes2 (u16Le b0 b1) = [b0, b1] := by
  simp only [bytes2, List.cons.injEq, and_true]
  refine ⟨?_, ?_⟩ <;>
  · apply BitVec.eq_of_getLsbD_eq
    intro i hi
    simp only [u16Le, byteOf, BitVec.getLsbD_append, BitVec.getLsbD_extractLsb']
    grind

theorem bytes4_u32Le (b0 b1 b2 b3 : Byte) : bytes4 (u32Le b0 b1 b2 b3) = [b0, b1, b2, b3] := by
  simp only [bytes4, List.cons.injEq, and_true]
  refine ⟨?_, ?_, ?_, ?_⟩ <;>
  · apply BitVec.eq_of_getLsbD_eq
    intro i hi
    simp only [u32Le, byteOf, BitVec.getLsbD_append, BitVec.getLsbD_extractLsb']
    grind

theorem bytes8_u64Le (b0 b1 b2 b3 b4 b5 b6 b7 : Byte) :
    bytes8 (u64Le b0 b1 b2 b3 b4 b5 b6 b7) = [b0, b1, b2, b3, b4, b5, b6, b7] := by
  simp only [bytes8, List.cons.injEq, and_true]
  refine ⟨?_, ?_, ?_, ?_, ?_, ?_, ?_, ?_⟩ <;>
  · apply BitVec.eq_of_getLsbD_eq
    intro i hi
    simp only [u64Le, byteOf, BitVec.getLsbD_append, BitVec.getLsbD_extractLsb']
    grind

/-! ## The register block as cells -/

/-- Numbering a list from `n` gives cells in canonical form. -/
theorem wf_zipIdx (bs : List Byte) (n : Nat) : Memory.wf ((bs.zipIdx n).map fun p => (p.2, p.1)) = true := by
  induction bs generalizing n with
  | nil => rfl
  | cons b rest ih =>
    cases rest with
    | nil => rfl
    | cons b2 rest2 =>
      have := ih (n + 1)
      simp only [List.zipIdx_cons, List.map_cons, Memory.wf] at this ⊢
      simp [this]

/-- The register block of any state is in canonical form. -/
theorem memCells_wf (s : State) : Memory.wf (memCells s) = true := wf_zipIdx _ _

/-- A write of bytes keeps the canonical form. -/
theorem memWrite_wf {s t : State} {addr n v : Nat} (_h : memWrite s addr n v = some t) :
    Memory.wf (memCells t) = true := memCells_wf t

/-- The block has 37 bytes with `HAS_PWM` and 28 without (R52). -/
theorem byteView_length (s : State) : (byteView s).length = if s.cfg.hasPwm then 37 else 28 := by
  cases h : s.cfg.hasPwm <;>
    simp [byteView, fieldsOf, h, fieldValue, FieldValue.bytes, PtStart.bytes, Analog.bytes, PwmCfg.bytes, bytes2, bytes4]

end Sys2Proof.Machine
end

