-- ==== Sys2Proof/Laws/Safety.lean ====
section
/-! SUPPORT. Each soundness predicate of Safety.lean, written out as a proposition about the fields it reads; and what the
sequences and runs of Schedule.lean do at their first step. -/

namespace Sys2Proof.Machine

theorem slotSound_iff (m : Byte) (x : Slot) :
    slotSound m x = true ↔
      (x.periodic.isSome = true → x.active = true) ∧
      (x.active = false → x.periodic = none ∧ x.ends = []) ∧
      (x.active = true → x.outputMask = m) := by
  simp only [slotSound, Bool.and_eq_true, Bool.or_eq_true, Bool.not_eq_true', decide_eq_true_eq, Option.isNone_iff_eq_none,
    List.isEmpty_iff]
  cases x.active <;> cases x.periodic <;> simp

theorem endsSound_iff (now : Time) (x : Slot) :
    endsSound now x = true ↔
      timesSorted x.ends = true ∧ ∀ t ∈ x.ends, t.toNat ≤ now.toNat + x.widthUs.toNat := by
  simp [endsSound]

theorem inputsSound_iff (s : State) :
    inputsSound s = true ↔
      inputBitsExist s.cfg.nDi s.diPins = true ∧ inputBitsExist s.cfg.nDi s.regs.diState = true := by
  simp [inputsSound]

theorem analogSound_iff (s : State) :
    analogSound s = true ↔
      s.regs.analog.ch0 < 4096 ∧ s.regs.analog.ch1 < 4096 ∧ s.regs.analog.ch2 < 4096 := by
  simp [analogSound, and_assoc]

theorem queuesSound_iff (s : State) :
    queuesSound s = true ↔ s.adc.fifo.length ≤ s.cfg.adcFifoDepth ∧ s.queue.length ≤ 2 := by
  simp only [queuesSound, Bool.and_eq_true, decide_eq_true_eq]
  rfl

theorem pwmSound_iff (s : State) :
    pwmSound s = true ↔ (s.pwm.running = true → s.pwm.level ≤ s.pwm.top) ∧ s.main.dutyClamped = true := by
  simp only [pwmSound, Bool.and_eq_true, Bool.or_eq_true, Bool.not_eq_true', decide_eq_true_eq]
  cases s.pwm.running <;> simp

theorem pwmAbsent_iff (s : State) :
    pwmAbsent s = true ↔
      s.cfg.hasPwm = true ∨
      (s.pwm = Pwm.stopped ∧ s.regs.pwmCfg = ⟨0, 0⟩ ∧ s.regs.pwmStop = 0 ∧ s.main.isPwmStep = false) := by
  simp only [pwmAbsent, Bool.and_eq_true, Bool.or_eq_true, Bool.not_eq_true', decide_eq_true_eq, and_assoc]

theorem dataSound_iff (s : State) :
    dataSound s = true ↔
      inputsSound s = true ∧ analogSound s = true ∧ queuesSound s = true ∧ pwmSound s = true ∧
        pwmAbsent s = true := by
  simp [dataSound, and_assoc]

theorem chanAIdle_iff (s : State) : chanAIdle s = true ↔ s.chA.busy = false ∧ s.chA.abortReq = false := by
  simp [chanAIdle]

theorem chanBIdle_iff (s : State) : chanBIdle s = true ↔ s.chB.busy = false ∧ s.chB.abortReq = false := by
  simp [chanBIdle]

theorem DrainCb.isNone_iff (cb : DrainCb) : cb.isNone = true ↔ cb = .noCb := by
  cases cb <;> simp [DrainCb.isNone]

theorem pipelineStopped_iff (s : State) :
    pipelineStopped s = true ↔
      s.chA.busy = false ∧ s.chA.abortReq = false ∧ s.chB.busy = false ∧ s.chB.abortReq = false ∧
      s.adc.running = false ∧ s.adc.fifo = [] ∧ s.drain.target = none ∧ s.drain.cb = .noCb := by
  simp only [pipelineStopped, Bool.and_eq_true, chanAIdle_iff, chanBIdle_iff, Bool.not_eq_true', List.isEmpty_iff,
    Option.isNone_iff_eq_none, DrainCb.isNone_iff, and_assoc]

theorem drainOff_iff (s : State) : drainOff s = true ↔ s.drain.target = none ∧ s.drain.cb = .noCb := by
  simp only [drainOff, Bool.and_eq_true, Option.isNone_iff_eq_none, DrainCb.isNone_iff]

theorem oneChannelBusy_iff (s : State) :
    oneChannelBusy s = true ↔
      s.chA.busy ≠ s.chB.busy ∧ s.chA.abortReq = false ∧ s.chB.abortReq = false := by
  simp [oneChannelBusy, and_assoc]

theorem acquisitionOff_iff (s : State) :
    acquisitionOff s = true ↔ pipelineStopped s = true ∧ s.queue = [] ∧ s.diIrqEnabled = false := by
  simp only [acquisitionOff, Bool.and_eq_true, List.isEmpty_iff, Bool.not_eq_true', and_assoc]

theorem acquisitionOn_iff (s : State) :
    acquisitionOn s = true ↔ s.adc.running = true ∧ oneChannelBusy s = true ∧ s.diIrqEnabled = true := by
  simp only [acquisitionOn, Bool.and_eq_true, and_assoc]

theorem channelsSound_iff (s : State) :
    channelsSound s = true ↔
      (s.chA.busy = true → s.chA.idx < 3) ∧ (s.drain.cb ≠ .noCb → s.drain.target.isSome = true) := by
  simp only [channelsSound, Bool.and_eq_true, Bool.or_eq_true, Bool.not_eq_true', decide_eq_true_eq, DrainCb.isNone_iff]
  by_cases h : s.drain.cb = .noCb <;> cases s.chA.busy <;> simp [h]

theorem pipelineSound_iff (s : State) :
    pipelineSound s = true ↔ coordSound s = true ∧ channelsSound s = true := by
  simp [pipelineSound]

/-! ## Sequences of turns and runs -/

theorem execAll_append (l₁ l₂ : List Instr) (s : State) :
    execAll (l₁ ++ l₂) s = andThen (execAll l₁ s) (execAll l₂) := by
  induction l₁ generalizing s with
  | nil => rfl
  | cons i l ih =>
    simp only [List.cons_append, execAll]
    cases exec i s with
    | next t => exact ih t
    | fault r => rfl
    | refused r => rfl

theorem mainTurns_add (a b : Nat) (s : State) : mainTurns (a + b) s = andThen (mainTurns a s) (mainTurns b) := by
  induction a generalizing s with
  | zero => rw [Nat.zero_add]; rfl
  | succ a ih =>
    rw [Nat.succ_add]
    simp only [mainTurns]
    cases mainTurn s with
    | next t => exact ih t
    | fault r => rfl
    | refused r => rfl

/-- A run that answers a next state takes its first step to one. -/
theorem run_succ_next {n : Nat} {s t : State} :
    run (n + 1) s = .next t ↔ ∃ u, step s = .next u ∧ run n u = .next t := by
  simp only [run]
  cases step s <;> simp [andThen]

/-- Everything a step can do to what the watcher of rule R298 remembers. -/
theorem watchRestart_cases (w : Option Nat) (s : State) :
    (beginsPipeline s = true ∧ watchRestart w s = some 0) ∨
    (takesDrainFire s = true ∧ watchRestart w s = none) ∨
    (takesTransferA s = true ∧ watchRestart w s = w.map (· + 1)) ∨ watchRestart w s = w := by
  unfold watchRestart
  split
  · exact .inl ⟨‹_›, rfl⟩
  · split
    · exact .inr (.inl ⟨‹_›, rfl⟩)
    · split
      · exact .inr (.inr (.inl ⟨‹_›, rfl⟩))
      · exact .inr (.inr (.inr rfl))

theorem firstFireIsFresh_iff (w : Option Nat) (s : State) :
    firstFireIsFresh w s = true ↔ ∀ k, w = some k → takesDrainFire s = true → 3 ≤ k := by
  cases w with
  | none => simp [firstFireIsFresh]
  | some k => cases h : takesDrainFire s <;> simp [firstFireIsFresh, h]

/-- An assumption over a run, taken apart at its first step. -/
theorem alongRun_succ {W : Type} {watch : W → State → W} {ok : W → State → Bool} {n : Nat} {w : W} {s t : State}
    (h : step s = .next t) :
    alongRun watch ok (n + 1) w s = true ↔ ok w s = true ∧ alongRun watch ok n (watch w s) t = true := by
  simp [alongRun, h]

/-- An induction over a run under an assumption: what holds at first, and is kept by every step that passes the test,
holds at the end. -/
theorem alongRun_induction {W : Type} {watch : W → State → W} {ok : W → State → Bool} {Inv : W → State → Prop}
    (keep : ∀ w s t, step s = .next t → ok w s = true → Inv w s → Inv (watch w s) t) {n : Nat} :
    ∀ {w : W} {s t : State}, Inv w s → alongRun watch ok n w s = true → run n s = .next t → ∃ w', Inv w' t := by
  induction n with
  | zero => intro w s t hi _ hr; cases hr; exact ⟨w, hi⟩
  | succ n ih =>
    intro w s t hi ha hr
    obtain ⟨u, hs, hu⟩ := run_succ_next.1 hr
    obtain ⟨hok, hrest⟩ := (alongRun_succ hs).1 ha
    exact ih (keep w s u hs hok hi) hrest hu

/-- Only an ADC_CONVERT of a running converter is one that happens. -/
theorem takesConvert_iff (s : State) :
    takesConvert s = true ↔ (∃ w, fetch s.sched = .operation (.adcConvert w)) ∧ s.adc.running = true := by
  unfold takesConvert
  split
  · rename_i w h; simp [h]
  · rename_i i hne h; simp only [Bool.false_eq_true, h, false_iff, not_and]
    rintro ⟨w, hw⟩; cases hw; exact absurd rfl (hne w)
  · rename_i h; simp [h]
  · rename_i h; simp [h]

/-- A DRAIN_PUSH that happens ends the memory of a popSample, and a popSample renews it. -/
theorem watchPop_eq (popped : Bool) (s : State) :
    watchPop popped s = (!takesPush s && (popped || takesPop s)) := by
  unfold watchPop
  cases takesPush s <;> simp

end Sys2Proof.Machine
end

