-- ==== Sys2Proof/Machine/Fairness.lean ====
section
/-! DEFINITION. Endless runs of the machine, and the weak fairness that rule R12 (00_scope.md) obliges them to: an enabled
step happens eventually. It constrains runs, not steps, so it is a predicate of a run (notes/assumptions/21.md). -/

namespace Sys2Proof.Machine

/-! ## Endless runs -/

/-- Turns that arrive from outside, after those already waiting (R12; notes/assumptions/2.md). -/
def State.arrive (s : State) (turns : List Turn) : State := { s with sched := s.sched ++ turns }

/-- An endless run: each state is the one before it after its step, with the turns that have arrived meanwhile. -/
def IsRun (σ : Nat → State) : Prop :=
  ∀ n, ∃ t turns, step (σ n) = .next t ∧ σ (n + 1) = t.arrive turns

/-! ## The steps that are obliged to happen -/

/-- The steps of the agents that step by themselves (R264): the main loop's sub-step and its UPDATE, which "keeps being
called" (R182), and every operation of the interrupt and hardware contexts but the input change. ADC_CONVERT with any
draw is one step, and so is TICK_TIME with any operand. -/
inductive ObligedStep where
  | subStep | update | time
  | pulseFire (m : Byte) | pulseEnd (m : Byte)
  | conversion | transferA | transferB | abortLand (x : Channel)
  | drainFire | drainRead | drainPush | inputEdge
  deriving DecidableEq, Repr

/-- The obliged step an operation is. What the host, the runtime's other hooks and the environment do is input: nothing
obliges it (R181, R217, R263, R282). -/
def obligedStep : Instr → Option ObligedStep
  | .rdDiState | .rdDoSet | .rdDoClear | .rdDoToggle | .rdDoState | .rdPtStart | .rdPtStop | .rdAnalog
  | .rdPwmCfg | .rdPwmStop
  | .wrDiState _ | .wrDoSet _ | .wrDoClear _ | .wrDoToggle _ | .wrDoState _ | .wrPtStart _ | .wrPtStop _ | .wrAnalog _
  | .wrPwmCfg _ | .wrPwmStop _ | .reset | .configure | .setEventsEnabled _ | .diChange _ => none
  | .update => some .update
  | .tickTime _ => some .time
  | .ptFire m => some (.pulseFire m)
  | .ptEnd m => some (.pulseEnd m)
  | .adcConvert _ => some .conversion
  | .dmaAXfer => some .transferA
  | .dmaBXfer => some .transferB
  | .dmaAbortLand x => some (.abortLand x)
  | .drainFire => some .drainFire
  | .drainRead => some .drainRead
  | .drainPush => some .drainPush
  | .diEdge => some .inputEdge

/-- The obliged step a turn is. -/
def obligedTurn : Fetched → Option ObligedStep
  | .mainLoop => some .subStep
  | .operation i => obligedStep i
  | .noOperation _ => none

/-- The guard of a turn: for the main loop's, that it is inside an operation and may run (R254). -/
def turnGuard (f : Fetched) (s : State) : Prop :=
  match f with
  | .mainLoop => s.main ≠ .idle ∧ s.drain.cb.isSnap = false
  | .operation i => operationGuard i s
  | .noOperation _ => False

/-- The step may happen: some turn is it and has a true guard (R12). -/
def stepEnabled (o : ObligedStep) (s : State) : Prop := ∃ f, obligedTurn f = some o ∧ turnGuard f s

/-- The step is the one `s` takes next. -/
def stepHappens (o : ObligedStep) (s : State) : Prop :=
  obligedTurn (fetch s.sched) = some o ∧ turnGuard (fetch s.sched) s

/-- Weak fairness (R12): a step that is enabled from some moment on happens after it. -/
def WeaklyFair (σ : Nat → State) : Prop :=
  ∀ (o : ObligedStep) (n : Nat), (∀ k, n ≤ k → stepEnabled o (σ k)) → ∃ k, n ≤ k ∧ stepHappens o (σ k)

end Sys2Proof.Machine
end

