-- ==== Sys2Proof/Certificates/Slice0/Obligations.lean ====
section
/-! DEFINITION. The statements for the provers, by subject: encoding, turns and guards, reads and writes, the pulse-train
engine, time, the sampling pipeline, the Coordinator, reset and PWM, invariants, and rules of the whole machine. A
state update written out in a statement names every field the step writes; all others are as before. -/

open Sys2Proof Sys2Proof.Machine

/-! ## Encoding (30_encoding.md) -/

/-- Every operation, with every operand, is read back from its frame (R83, R84, R89, R95). The frame's two selector bytes
and its operand bytes are the model's layout (notes/assumptions/4.md). -/
def Obligations.DecodeOfEncodeIsIdentity : Prop :=
  ∀ i : Instr, decode (encode i) = .ok i

/-- An operation has one frame only (R84, R99: no variable-length forms). -/
def Obligations.EncodeOfDecodeIsIdentity : Prop :=
  ∀ (frame : List Byte) (i : Instr), decode frame = .ok i → encode i = frame

/-- A selector that no operation has is refused by name, whatever bytes follow it (R84, R96). -/
def Obligations.UnassignedSelectorsAreRefused : Prop :=
  ∀ (sel : BitVec 12) (ops : List Byte), (∀ i : Instr, i.selector ≠ sel) →
    decode (selBytes sel ++ ops) = .error (.unassigned sel)

/-- Frames written out from the spec's encoding tables (R83, R95; 95_test_vectors.md EN1 to EN10) decode to the
operations they stand for. -/
def Obligations.WrittenOutFramesDecode : Prop :=
  decode [0x05, 0x01, 0x01, 0, 0, 0, 0x64, 0, 0, 0, 0xE8, 0x03, 0, 0, 0x03, 0, 0, 0] =
      .ok (.wrPtStart ⟨1, 100, 1000, 3⟩) ∧
  decode [0x05, 0x01, 0x04, 0, 0, 0, 0x2C, 0x01, 0, 0, 0xE8, 0x03, 0, 0, 0xFF, 0xFF, 0xFF, 0xFF] =
      .ok (.wrPtStart ⟨4, 300, 1000, 0xFFFFFFFF⟩) ∧
  decode [0x06, 0x01, 0x04] = .ok (.wrPtStop 4) ∧
  decode [0x08, 0x01, 0xE8, 0x03, 0, 0, 0x32, 0, 0, 0] = .ok (.wrPwmCfg ⟨1000, 50⟩) ∧
  decode [0x07, 0x01, 0x01, 0, 0x02, 0, 0x03, 0] = .ok (.wrAnalog ⟨1, 2, 3⟩) ∧
  decode [0x07, 0x00] = .ok .rdAnalog ∧
  decode [0x03, 0x02] = .ok .configure ∧
  decode [0x02, 0x02, 0x01] = .ok (.setEventsEnabled true) ∧
  decode [0x03, 0x04, 0x23, 0xA1] = .ok (.adcConvert 0xA123) ∧
  decode [0x0A, 0x04, 0x05] = .ok (.diChange 5)

/-- The byte view of the register map: the fields one after another in index order with no padding, 37 bytes with PWM and
28 without (R52), each element little-endian (R55; R56 derives it), read through `MemRead` (R10). That an offset outside
the block reads as nothing is the model's choice (notes/assumptions/16.md). -/
def Obligations.ByteViewIsPackedLittleEndian : Prop :=
  ∀ s : State,
    (byteView s).length = (if s.cfg.hasPwm then 37 else 28) ∧
    memRead s 0 1 = some s.regs.diState.toNat ∧
    memRead s 1 1 = some s.regs.doSet.toNat ∧
    memRead s 2 1 = some s.regs.doClear.toNat ∧
    memRead s 3 1 = some s.regs.doToggle.toNat ∧
    memRead s 4 1 = some s.doPins.toNat ∧
    memRead s 5 4 = some s.regs.ptStart.mask.toNat ∧
    memRead s 9 4 = some s.regs.ptStart.widthUs.toNat ∧
    memRead s 13 4 = some s.regs.ptStart.periodUs.toNat ∧
    memRead s 17 4 = some s.regs.ptStart.count.toNat ∧
    memRead s 21 1 = some s.regs.ptStop.toNat ∧
    memRead s 22 2 = some s.regs.analog.ch0.toNat ∧
    memRead s 24 2 = some s.regs.analog.ch1.toNat ∧
    memRead s 26 2 = some s.regs.analog.ch2.toNat ∧
    (s.cfg.hasPwm = true → memRead s 28 4 = some s.regs.pwmCfg.frequencyHz.toNat ∧
      memRead s 32 4 = some s.regs.pwmCfg.dutyPercent.toNat ∧ memRead s 36 1 = some s.regs.pwmStop.toNat) ∧
    (s.cfg.hasPwm = false → memRead s 28 1 = none)

/-- `MemRead` after `MemWrite` of the same bytes gives the value written, every byte outside keeps its value, and the
write changes nothing but the register map and the pins `DO_STATE` is the view of (R10, R33). -/
def Obligations.MemReadAfterMemWrite : Prop :=
  ∀ (s t : State) (addr n v : Nat), memWrite s addr n v = some t →
    memRead t addr n = some (v % 256 ^ n) ∧
    (∀ a, a < addr ∨ addr + n ≤ a → memByte t a = memByte s a) ∧
    t = { s with regs := t.regs, doPins := t.doPins }

/-! ## Turns and guards (00_scope.md R11, R12; 60_exceptions.md section 4) -/

/-- A step takes the head of the schedule: the operation its frame decodes to is run by `exec` on the state without that
turn; a turn of the main loop, and an empty schedule, run the main loop's next sub-step; a frame that is no operation is
refused for the reason the decoder names. -/
def Obligations.StepRunsTheTurn : Prop :=
  (∀ (s : State) (frame : List Byte) (rest : List Turn) (i : Instr),
    s.sched = .op frame :: rest → decode frame = .ok i → step s = exec i { s with sched := rest }) ∧
  (∀ (s : State) (frame : List Byte) (rest : List Turn) (e : DecodeError),
    s.sched = .op frame :: rest → decode frame = .error e → step s = .refused (.notAnOperation e)) ∧
  (∀ (s : State) (rest : List Turn), s.sched = .main :: rest → step s = mainTurn { s with sched := rest }) ∧
  (∀ s : State, s.sched = [] → step s = mainTurn s)

/-- The operation of a table word, placed with `withFetchWord`, is what the very next step runs. -/
def Obligations.FetchWordRunsTheOperation : Prop :=
  ∀ (s : State) (nbits w : Nat) (i : Instr), decodeTableWord nbits w = some i →
    step (s.withFetchWord nbits w) = exec i s

/-- An operation whose guard is false does not happen: nothing changes (R12). The PWM operations are taken in a variant
that has them. That a turn spent so is used up is the model's choice (notes/assumptions/2.md); and so are three parts of
`operationGuard`: DRAIN_PUSH is held while its timer has no target (notes/assumptions/9.md), and TICK_TIME 0 and a
DI_CHANGE of inputs that do not exist are held as ill-formed (notes/assumptions/13.md). -/
def Obligations.DisabledOperationsChangeNothing : Prop :=
  ∀ (i : Instr) (s : State), (i.isPwm = true → s.cfg.hasPwm = true) → ¬ operationGuard i s → exec i s = .next s

/-- No operation of the device stops the machine, but for CONFIGURE while the pipeline runs (R229, R243; U8). -/
def Obligations.WellFormedOperationsComplete : Prop :=
  ∀ (i : Instr) (s : State), i.wellFormed s.cfg = true → (i = .configure → pipelineStopped s = true) →
    ∃ t, exec i s = .next t

/-- Contexts do not nest: while the drain callback is in flight no other callback runs; while it is in phase `Snap` the
main loop takes no step, neither of the operation it is inside nor by beginning one; and while the main loop is inside
an operation it begins no other (R182, R253, R254, R280). The one callback that could hold the interrupt context for long
does not under the assumption of R313, a popSample between any two DRAIN_PUSH steps (as notes/assumptions/23.md reads it): in
a run that starts with an empty hand-off queue at most one item ever waits, so that DRAIN_PUSH never blocks, and the next
UPDATE reports what waits. -/
def Obligations.ContextsDoNotNest : Prop :=
  (∀ (s : State) (m : Byte), s.drain.cb ≠ .noCb →
    exec (.ptFire m) s = .next s ∧ exec (.ptEnd m) s = .next s ∧ exec .diEdge s = .next s ∧
    exec .drainFire s = .next s) ∧
  (∀ s : State, s.drain.cb.isSnap = true → mainTurn s = .next s) ∧
  (∀ (i : Instr) (s : State), s.main ≠ .idle ∨ s.drain.cb.isSnap = true → contextOf i = .mainLoop →
    (i.isPwm = true → s.cfg.hasPwm = true) → exec i s = .next s) ∧
  (∀ (s t : State) (n : Nat), s.queue = [] → popsBetweenPushes n true s = true → run n s = .next t →
    t.queue.length ≤ 1 ∧
    (t.drain.cb.isPush = true → t.drain.target ≠ none →
      ∃ u, exec .drainPush t = .next u ∧ u.drain.cb = .noCb) ∧
    (t.main = .idle → t.drain.cb.isSnap = false →
      ∃ u, exec .update t = .next u ∧ u.queue = [] ∧
        u.out = t.out ++ t.queue.map fun item =>
          .event .analog item.timestamp
            (.analog ⟨item.ch0.setWidth 16, item.ch1.setWidth 16, item.ch2.setWidth 16⟩)))

/-! ## Reads (43_digital_io.md section 4) -/

/-- A read appends one reply with the field's content and changes nothing else (R62, R207 to R214). -/
def Obligations.ReadsReplyTheField : Prop :=
  ∀ s : State, s.main = .idle → s.drain.cb.isSnap = false →
    exec .rdDiState s = .next { s with out := s.out ++ [.readReply .diState (.byte s.regs.diState)] } ∧
    exec .rdDoSet s = .next { s with out := s.out ++ [.readReply .doSet (.byte s.regs.doSet)] } ∧
    exec .rdDoClear s = .next { s with out := s.out ++ [.readReply .doClear (.byte s.regs.doClear)] } ∧
    exec .rdDoToggle s = .next { s with out := s.out ++ [.readReply .doToggle (.byte s.regs.doToggle)] } ∧
    exec .rdDoState s = .next { s with out := s.out ++ [.readReply .doState (.byte s.doPins)] } ∧
    exec .rdPtStart s = .next { s with out := s.out ++ [.readReply .ptStart (.ptStart s.regs.ptStart)] } ∧
    exec .rdPtStop s = .next { s with out := s.out ++ [.readReply .ptStop (.byte s.regs.ptStop)] } ∧
    exec .rdAnalog s = .next { s with out := s.out ++ [.readReply .analog (.analog s.regs.analog)] }

/-- The two PWM fields read back what was last written, unclamped (R215, R216). -/
def Obligations.PwmReadsReplyTheField : Prop :=
  ∀ s : State, s.cfg.hasPwm = true → s.main = .idle → s.drain.cb.isSnap = false →
    exec .rdPwmCfg s = .next { s with out := s.out ++ [.readReply .pwmCfg (.pwmCfg s.regs.pwmCfg)] } ∧
    exec .rdPwmStop s = .next { s with out := s.out ++ [.readReply .pwmStop (.byte s.regs.pwmStop)] }

/-! ## Digital outputs and refused writes (43_digital_io.md sections 2 and 3) -/

/-- The four digital-output writes: the first sub-step stores the byte and drives the pins, the main loop's next turn
acknowledges; every byte of the register block outside the written field and `DO_STATE` keeps its value (R201 to
R204). -/
def Obligations.OutputWritesDriveThePins : Prop :=
  ∀ (s : State) (v : Byte), s.main = .idle → s.drain.cb.isSnap = false →
    (exec (.wrDoSet v) s =
        .next { s with regs := { s.regs with doSet := v }, doPins := s.doPins ||| v, main := .ack .doSet } ∧
      execThenTurns (.wrDoSet v) 1 s =
        .next { s with regs := { s.regs with doSet := v }, doPins := s.doPins ||| v, main := .idle,
                       out := s.out ++ [.writeAck .doSet] } ∧
      ∀ t, exec (.wrDoSet v) s = .next t → ∀ a, a ≠ 1 → a ≠ 4 → memByte t a = memByte s a) ∧
    (exec (.wrDoClear v) s =
        .next { s with regs := { s.regs with doClear := v }, doPins := s.doPins &&& ~~~v, main := .ack .doClear } ∧
      execThenTurns (.wrDoClear v) 1 s =
        .next { s with regs := { s.regs with doClear := v }, doPins := s.doPins &&& ~~~v, main := .idle,
                       out := s.out ++ [.writeAck .doClear] } ∧
      ∀ t, exec (.wrDoClear v) s = .next t → ∀ a, a ≠ 2 → a ≠ 4 → memByte t a = memByte s a) ∧
    (exec (.wrDoToggle v) s =
        .next { s with regs := { s.regs with doToggle := v }, doPins := s.doPins ^^^ v, main := .ack .doToggle } ∧
      execThenTurns (.wrDoToggle v) 1 s =
        .next { s with regs := { s.regs with doToggle := v }, doPins := s.doPins ^^^ v, main := .idle,
                       out := s.out ++ [.writeAck .doToggle] } ∧
      ∀ t, exec (.wrDoToggle v) s = .next t → ∀ a, a ≠ 3 → a ≠ 4 → memByte t a = memByte s a) ∧
    (exec (.wrDoState v) s = .next { s with doPins := v, main := .ack .doState } ∧
      execThenTurns (.wrDoState v) 1 s =
        .next { s with doPins := v, main := .idle, out := s.out ++ [.writeAck .doState] } ∧
      ∀ t, exec (.wrDoState v) s = .next t → ∀ a, a ≠ 4 → memByte t a = memByte s a)

/-- A write to a read-only field is answered with an error reply; the payload is not stored and nothing else changes
(R205, R206, R241). -/
def Obligations.ReadOnlyWritesAreAnsweredWithAnError : Prop :=
  ∀ (s : State) (v : Byte) (a : Analog), s.main = .idle → s.drain.cb.isSnap = false →
    exec (.wrDiState v) s = .next { s with out := s.out ++ [.writeError .diState .readOnly] } ∧
    exec (.wrAnalog a) s = .next { s with out := s.out ++ [.writeError .analog .readOnly] }

/-! ## The Pulse-Train Engine (40_pulse_train.md) -/

/-- A start write, sub-step by sub-step without interruption: the payload is stored, a train on the same mask is
cancelled with one "train stopped", the slot is armed with its first target now, and the write is acknowledged. The
slot is the mask word's low byte; the pins are not written (R113, R111, R112, R85). -/
def Obligations.PtStartWriteCancelsAndArms : Prop :=
  ∀ (s : State) (p : PtStart), s.main = .idle → s.drain.cb.isSnap = false →
    exec (.wrPtStart p) s =
      .next { s with regs := { s.regs with ptStart := p },
                     main := .ptStartCancel (p.mask.setWidth 8) p.widthUs p.periodUs p.count } ∧
    execThenTurns (.wrPtStart p) 3 s =
      .next { s with
        regs := { s.regs with
          ptStart := p,
          ptStop := if (s.slot (p.mask.setWidth 8)).active then (s.slot (p.mask.setWidth 8)).outputMask
                    else s.regs.ptStop },
        slots := s.poolWith (p.mask.setWidth 8)
          { outputMask := p.mask.setWidth 8, widthUs := p.widthUs, periodUs := p.periodUs, remaining := p.count,
            active := true, periodic := some s.now, nextDelay := 0, ends := [] },
        out := s.out ++
          (if (s.slot (p.mask.setWidth 8)).active then
            [.event .ptStop s.now (.byte (s.slot (p.mask.setWidth 8)).outputMask)] else []) ++ [.writeAck .ptStart] }

/-- A stop write: an active slot is cleared with one "train stopped", an idle one is left alone without an event; either
way the write is acknowledged and the pins stay as they are (R114, R111, R126). -/
def Obligations.PtStopWriteCancels : Prop :=
  ∀ (s : State) (m : Byte), s.main = .idle → s.drain.cb.isSnap = false →
    exec (.wrPtStop m) s = .next { s with regs := { s.regs with ptStop := m }, main := .ptStopCancel m } ∧
    ((s.slot m).active = true →
      execThenTurns (.wrPtStop m) 2 s =
        .next { s with
          regs := { s.regs with ptStop := (s.slot m).outputMask },
          slots := s.poolWith m { s.slot m with active := false, periodic := none, ends := [] },
          out := s.out ++ [.event .ptStop s.now (.byte (s.slot m).outputMask), .writeAck .ptStop] }) ∧
    ((s.slot m).active = false →
      execThenTurns (.wrPtStop m) 2 s =
        .next { s with regs := { s.regs with ptStop := m }, out := s.out ++ [.writeAck .ptStop] })

/-- Cancelling an already-idle slot is a no-op, so cancelling twice is cancelling once; a cancelled slot has no alarm left
and no other slot changes (R111, R257). -/
def Obligations.CancelIsIdempotent : Prop :=
  ∀ (s : State) (m : Byte),
    cancelSlot m (cancelSlot m s) = cancelSlot m s ∧
    ((cancelSlot m s).slot m).active = false ∧
    (∀ n, n ≠ m → (cancelSlot m s).slot n = s.slot n) ∧
    (cancelSlot m s).doPins = s.doPins

/-- The periodic callback, due and with the interrupt context free: the count is decremented only when positive, the
delay is the negative of the period or the stop sentinel, an end alarm is armed from the actual time, the pins are set,
one "pulse started" is raised, and the timer repeats from the scheduled time unless the delay is zero (R115, R13 (a),
(b), (c)). -/
def Obligations.PtFireStartsAPulse : Prop :=
  ∀ (s : State) (m : Byte) (target : Time) (remaining : Word) (delay : Time),
    (s.slot m).periodic = some target → target ≤ s.now → s.drain.cb = .noCb →
    remaining = (if 0 < (s.slot m).remaining.toInt then (s.slot m).remaining - 1 else (s.slot m).remaining) →
    delay = (if 0 < (s.slot m).remaining.toInt ∧ remaining = 0 then 0
             else 0 - BitVec.setWidth 64 (s.slot m).periodUs) →
    exec (.ptFire m) s =
      .next { s with
        slots := s.poolWith m { s.slot m with
          remaining := remaining, nextDelay := delay,
          ends := (s.slot m).ends ++ [s.now + BitVec.setWidth 64 (s.slot m).widthUs],
          periodic := if delay ≠ 0 then some (target + BitVec.setWidth 64 (s.slot m).periodUs) else none },
        doPins := s.doPins ||| (s.slot m).outputMask,
        regs := { s.regs with doSet := (s.slot m).outputMask },
        out := s.out ++ [.event .doSet s.now (.byte (s.slot m).outputMask)] }

/-- The end callback, due and with the interrupt context free: the oldest end alarm is taken, the mask is cleared from
the pins, "pulse ended" is raised; on the stop sentinel the slot becomes idle and "train stopped" follows with the same
time (R116). -/
def Obligations.PtEndEndsAPulse : Prop :=
  ∀ (s : State) (m : Byte) (target : Time) (rest : List Time),
    (s.slot m).ends = target :: rest → target ≤ s.now → s.drain.cb = .noCb →
    ((s.slot m).nextDelay ≠ 0 →
      exec (.ptEnd m) s =
        .next { s with
          slots := s.poolWith m { s.slot m with ends := rest },
          doPins := s.doPins &&& ~~~(s.slot m).outputMask,
          regs := { s.regs with doClear := (s.slot m).outputMask },
          out := s.out ++ [.event .doClear s.now (.byte (s.slot m).outputMask)] }) ∧
    ((s.slot m).nextDelay = 0 →
      exec (.ptEnd m) s =
        .next { s with
          slots := s.poolWith m { s.slot m with active := false, periodic := none, ends := [] },
          doPins := s.doPins &&& ~~~(s.slot m).outputMask,
          regs := { s.regs with doClear := (s.slot m).outputMask, ptStop := (s.slot m).outputMask },
          out := s.out ++ [.event .doClear s.now (.byte (s.slot m).outputMask),
                           .event .ptStop s.now (.byte (s.slot m).outputMask)] })

/-- The schedule of a train does not drift and the count is exact: after `k` fires, each due, the next scheduled time is the
first plus `k` periods, whether or not it is due itself; a train with a positive count `n` repeats before its `n`-th fire
and stops at it; one with a zero or negative count keeps its count and never stops of itself (R117, R118). The sum is
taken modulo 2^64, as PT_FIRE takes it (R13 (c)); below 2^63 it never wraps (R266). -/
def Obligations.FiresAreCountedAndDoNotDrift : Prop :=
  ∀ (s : State) (m : Byte) (t0 : Time) (k : Nat),
    (s.slot m).periodic = some t0 → s.drain.cb = .noCb → (s.slot m).periodUs ≠ 0 →
    (0 < k → t0.toNat + (k - 1) * (s.slot m).periodUs.toNat ≤ s.now.toNat) →
    ((s.slot m).remaining.toInt ≤ 0 →
      ∃ t, execAll (List.replicate k (.ptFire m)) s = .next t ∧
        (t.slot m).periodic = some (t0 + BitVec.ofNat 64 (k * (s.slot m).periodUs.toNat)) ∧
        (t.slot m).remaining = (s.slot m).remaining ∧ t.now = s.now) ∧
    (0 < (s.slot m).remaining.toInt → (k : Int) < (s.slot m).remaining.toInt →
      ∃ t, execAll (List.replicate k (.ptFire m)) s = .next t ∧
        (t.slot m).periodic = some (t0 + BitVec.ofNat 64 (k * (s.slot m).periodUs.toNat)) ∧
        (t.slot m).remaining.toInt = (s.slot m).remaining.toInt - k ∧ t.now = s.now) ∧
    (0 < (s.slot m).remaining.toInt → (k : Int) = (s.slot m).remaining.toInt →
      ∃ t, execAll (List.replicate k (.ptFire m)) s = .next t ∧
        (t.slot m).periodic = none ∧ (t.slot m).nextDelay = 0 ∧ (t.slot m).remaining = 0 ∧ t.now = s.now)

/-- A period of zero is the stop sentinel: a fire of a train with it, whatever its count and width, is its last; the count
is still decremented if positive; and the end alarm that follows completes the train (R119). -/
def Obligations.PeriodZeroMakesOnePulse : Prop :=
  ∀ (s : State) (m : Byte) (target : Time),
    (s.slot m).periodic = some target → target ≤ s.now → s.drain.cb = .noCb → (s.slot m).periodUs = 0 →
    ∃ t, exec (.ptFire m) s = .next t ∧ (t.slot m).periodic = none ∧ (t.slot m).nextDelay = 0 ∧
      (t.slot m).active = (s.slot m).active ∧
      (t.slot m).remaining =
        (if 0 < (s.slot m).remaining.toInt then (s.slot m).remaining - 1 else (s.slot m).remaining) ∧
      ∀ (u : State) (alarm : Time) (rest : List Time),
        u.slots = t.slots → (u.slot m).ends = alarm :: rest → alarm ≤ u.now → u.drain.cb = .noCb →
        ∃ v, exec (.ptEnd m) u = .next v ∧ (v.slot m).active = false ∧ (v.slot m).periodic = none ∧
          (v.slot m).ends = [] ∧
          v.out = u.out ++ [.event .doClear u.now (.byte (s.slot m).outputMask),
                            .event .ptStop u.now (.byte (s.slot m).outputMask)]

/-- A train of `n > 0` non-overlapping pulses run punctually, of any width below the period, zero included, raises exactly
`n` pairs of started and ended, at the scheduled times and one width after them, then one "train stopped" directly after
the last ended and with its time; it is idle afterwards with its pins low (R120, R124, R127). With a finite
`JITTER_MAX_US` the other alarms must leave time free to pass (R258): none falls more than that behind the train's end. -/
def Obligations.TrainEventsAlternate : Prop :=
  ∀ (s : State) (m : Byte) (w p : Word) (n : Nat),
    0 < n → n < 2 ^ 31 → w.toNat < p.toNat → s.now.toNat + n * p.toNat < 2 ^ 64 → s.drain.cb = .noCb →
    (∀ j, s.cfg.jitterMaxUs = some j →
      ∀ a : Time, ((∃ l : Byte, l ≠ m ∧ ((s.slot l).periodic = some a ∨ a ∈ (s.slot l).ends)) ∨
          s.drain.target = some a) → s.now.toNat + n * p.toNat ≤ a.toNat + j) →
    ∃ t, execAll (pulseOps m w p n) (armSlot m w p (BitVec.ofNat 32 n) s) = .next t ∧
      t.out = s.out ++
        (List.range n).flatMap (fun k => pulseEvents m (s.now + BitVec.ofNat 64 (k * p.toNat)) w) ++
        [.event .ptStop (s.now + BitVec.ofNat 64 ((n - 1) * p.toNat + w.toNat)) (.byte m)] ∧
      (t.slot m).active = false ∧ t.doPins = s.doPins &&& ~~~m

/-! ## Inputs of the engine and time (42_coordinator.md R181, 43_digital_io.md R217, R218; 60_exceptions.md R258) -/

/-- A flag change and an input change write the flag and the input and nothing else (R181, R217). -/
def Obligations.FlagAndInputsChangeAlone : Prop :=
  (∀ (s : State) (b : Bool), exec (.setEventsEnabled b) s = .next { s with eventsEnabled := b }) ∧
  (∀ (s : State) (v : Byte), (∀ k, s.cfg.nDi ≤ k → v.getLsbD k = false) →
    exec (.diChange v) s = .next { s with diPins := v })

/-- The input edge callback latches the whole input byte and raises one event, when delivery is enabled, the inputs
differ from the field, and the interrupt context is free; else nothing happens (R218). -/
def Obligations.InputEdgeLatchesTheByte : Prop :=
  ∀ s : State,
    (s.diIrqEnabled = true → s.diPins ≠ s.regs.diState → s.drain.cb = .noCb →
      exec .diEdge s =
        .next { s with regs := { s.regs with diState := s.diPins },
                       out := s.out ++ [.event .diState s.now (.byte s.diPins)] }) ∧
    (s.diIrqEnabled = false ∨ s.diPins = s.regs.diState ∨ s.drain.cb ≠ .noCb → exec .diEdge s = .next s)

/-- Time passes by `delta >= 1` microseconds exactly when the sum stays below 2^64 and, with a finite greatest lateness
and the interrupt context free, no armed alarm is left more than that lateness behind; nothing else changes (R258). That
an ill-formed TICK_TIME 0 is held, changing nothing, is the model's choice (notes/assumptions/13.md). -/
def Obligations.TimeAdvancesWithinTheJitterBound : Prop :=
  ∀ (s : State) (delta : Time),
    (delta ≠ 0 → s.now.toNat + delta.toNat < 2 ^ 64 →
      (∀ j, s.cfg.jitterMaxUs = some j → s.drain.cb = .noCb →
        ∀ a : Time, ((∃ m : Byte, (s.slot m).periodic = some a ∨ a ∈ (s.slot m).ends) ∨ s.drain.target = some a) →
          s.now.toNat + delta.toNat ≤ a.toNat + j) →
      exec (.tickTime delta) s = .next { s with now := s.now + delta }) ∧
    (∀ (j : Nat) (a : Time), s.cfg.jitterMaxUs = some j → s.drain.cb = .noCb →
      ((∃ m : Byte, (s.slot m).periodic = some a ∨ a ∈ (s.slot m).ends) ∨ s.drain.target = some a) →
      a.toNat + j < s.now.toNat + delta.toNat → exec (.tickTime delta) s = .next s) ∧
    (delta = 0 ∨ 2 ^ 64 ≤ s.now.toNat + delta.toNat → exec (.tickTime delta) s = .next s)

/-- Device time never decreases, and only TICK_TIME changes it (R21, R258). -/
def Obligations.TimeOnlyMovesForward : Prop :=
  ∀ s t : State, step s = .next t →
    s.now ≤ t.now ∧
    (t.now ≠ s.now →
      ∃ frame rest delta, s.sched = .op frame :: rest ∧ decode frame = .ok (.tickTime delta) ∧ t.now = s.now + delta)

/-! ## The sampling pipeline (41_sampling.md) -/

/-- A conversion queues its word, or loses it when the result queue is full; the round-robin pointer advances either way,
wrapping from 2 to 0; a stopped converter does nothing (R152, R153). -/
def Obligations.ConversionQueuesTheWord : Prop :=
  ∀ (s : State) (w : Cell),
    (s.adc.running = true → s.adc.fifo.length < s.cfg.adcFifoDepth →
      exec (.adcConvert w) s =
        .next { s with adc := { running := true, fifo := s.adc.fifo ++ [w], rr := s.adc.rr + 1 } }) ∧
    (s.adc.running = true → s.cfg.adcFifoDepth ≤ s.adc.fifo.length →
      exec (.adcConvert w) s = .next { s with adc := { s.adc with rr := s.adc.rr + 1 } }) ∧
    (s.adc.running = false → exec (.adcConvert w) s = .next s)

/-- A transfer of Channel A moves the oldest word, whole, to the next cell; the third one completes the pass and triggers
Channel B in the same step (R144, R145). -/
def Obligations.ChannelAMovesOneWord : Prop :=
  ∀ (s : State) (w : Cell) (rest : List Cell), s.chA.busy = true → s.adc.fifo = w :: rest →
    (s.chA.idx = 0 →
      exec .dmaAXfer s =
        .next { s with adc := { s.adc with fifo := rest }, buf := #v[w, s.buf[1], s.buf[2]],
                       chA := { s.chA with idx := 1 } }) ∧
    (s.chA.idx = 1 →
      exec .dmaAXfer s =
        .next { s with adc := { s.adc with fifo := rest }, buf := #v[s.buf[0], w, s.buf[2]],
                       chA := { s.chA with idx := 2 } }) ∧
    (s.chA.idx = 2 →
      exec .dmaAXfer s =
        .next { s with adc := { s.adc with fifo := rest }, buf := #v[s.buf[0], s.buf[1], w],
                       chA := { s.chA with idx := 3, busy := false }, chB := { s.chB with busy := true } })

/-- Channel B's one transfer re-arms Channel A at the first cell and completes (R146). -/
def Obligations.ChannelBRearmsChannelA : Prop :=
  ∀ s : State,
    (s.chB.busy = true →
      exec .dmaBXfer s =
        .next { s with chA := { s.chA with idx := 0, busy := true }, chB := { s.chB with busy := false } }) ∧
    (s.chB.busy = false → exec .dmaBXfer s = .next s)

/-- A requested abort lands: the channel is idle without a request, the other channel is not triggered, and Channel A
keeps its cell index; without a request nothing lands (R149). -/
def Obligations.AbortLandsOnItsChannel : Prop :=
  ∀ s : State,
    (s.chA.abortReq = true →
      exec (.dmaAbortLand .a) s = .next { s with chA := { s.chA with busy := false, abortReq := false } }) ∧
    (s.chA.abortReq = false → exec (.dmaAbortLand .a) s = .next s) ∧
    (s.chB.abortReq = true →
      exec (.dmaAbortLand .b) s = .next { s with chB := { s.chB with busy := false, abortReq := false } }) ∧
    (s.chB.abortReq = false → exec (.dmaAbortLand .b) s = .next s)

/-- One round of conversions with prompt transfers fills the three cells in channel order and leaves Channel A armed at
the first cell again (R101, R147). Cell `i` holds channel `i` (R167): in a run from startPipeline in which the channels
keep up with the converter, in either wording of R291 (notes/assumptions/22.md), if every conversion of channel `i` draws
a word of some kind `P i`, a cell `i` that holds such a word at first holds one ever after. -/
def Obligations.RoundFillsTheBuffer : Prop :=
  (∀ (s : State) (v0 v1 v2 : Cell), s.adc.running = true → s.adc.fifo = [] → 0 < s.cfg.adcFifoDepth →
    s.chA.busy = true → s.chA.idx = 0 → s.chB.busy = false →
    execAll (roundOps v0 v1 v2) s = .next { s with buf := #v[v0, v1, v2] }) ∧
  (∀ (s t : State) (n : Nat) (P : Fin 3 → Cell → Prop), s.main = .startSelect → pipelineSound s = true →
    0 < s.cfg.adcFifoDepth → channelsKeepUp n false s = true ∨ resultQueueShort n s = true →
    (∀ k u w, k < n → run k s = .next u → takesConvert u = true → fetch u.sched = .operation (.adcConvert w) →
      P u.adc.rr w) →
    run n s = .next t → ∀ i : Fin 3, P i s.buf[i] → P i t.buf[i])

/-- The drain callback is entered when due with the context free and events enabled; with events disabled the timer
cancels itself; when not due nothing happens (R158). -/
def Obligations.DrainFireEntersOrSelfCancels : Prop :=
  ∀ s : State, s.drain.cb = .noCb →
    (∀ target, s.drain.target = some target → target ≤ s.now → s.eventsEnabled = true →
      exec .drainFire s = .next { s with drain := { target := some target, cb := .snap0 } }) ∧
    (∀ target, s.drain.target = some target → target ≤ s.now → s.eventsEnabled = false →
      exec .drainFire s = .next { s with drain := { target := none, cb := .noCb } }) ∧
    (∀ target, s.drain.target = some target → s.now < target → exec .drainFire s = .next s) ∧
    (s.drain.target = none → exec .drainFire s = .next s)

/-- Each read takes the low twelve bits of its cell, in ascending cell order; the third stamps the snapshot with the time
of that read; outside phase `Snap` there is no read (R159). -/
def Obligations.DrainReadsTheCellsInOrder : Prop :=
  ∀ s : State,
    (s.drain.cb = .snap0 →
      exec .drainRead s = .next { s with drain := { s.drain with cb := .snap1 (s.buf[0].setWidth 12) } }) ∧
    (∀ v0, s.drain.cb = .snap1 v0 →
      exec .drainRead s = .next { s with drain := { s.drain with cb := .snap2 v0 (s.buf[1].setWidth 12) } }) ∧
    (∀ v0 v1, s.drain.cb = .snap2 v0 v1 →
      exec .drainRead s =
        .next { s with drain := { s.drain with
          cb := .push { timestamp := s.now, ch0 := v0, ch1 := v1, ch2 := s.buf[2].setWidth 12 } } }) ∧
    (s.drain.cb.isSnap = false → exec .drainRead s = .next s)

/-- The push queues the item last, re-arms the timer one period after its scheduled time and returns; while the queue
holds two items the callback stays blocked in phase `Push` (R70, R160, R164). -/
def Obligations.DrainPushQueuesOrBlocks : Prop :=
  ∀ (s : State) (item : SampleItem) (target : Time), s.drain = { target := some target, cb := .push item } →
    (s.queue.length < 2 →
      exec .drainPush s =
        .next { s with queue := s.queue ++ [item],
                       drain := { target := some (target + s.cfg.drainPeriodUs), cb := .noCb } }) ∧
    (2 ≤ s.queue.length → exec .drainPush s = .next s)

/-- No stale sample after a restart: under the assumption on the schedule of rule R298, what the AnalogBuffer held at a
startPipeline never shows anywhere but in the AnalogBuffer. Two runs of the same schedule from states that differ in the
buffer alone, at the start of startPipeline in a sound state, agree in everything else: the snapshot, the queue, `ANALOG`
and the output stream included, through later stops, resets and restarts too (R168). -/
def Obligations.NoStaleSampleAfterARestart : Prop :=
  ∀ (s t : State) (stale : Vector Cell 3) (n : Nat), s.main = .startSelect → pipelineSound s = true →
    restartsFresh n (some 0) s = true → run n s = .next t →
    ∃ t', run n { s with buf := stale } = .next t' ∧ t = { t' with buf := t.buf }

/-! ## The Coordinator and the update tick (42_coordinator.md) -/

/-- An update tick first pops at most one item: its values go to `ANALOG` and one event carries the capture time, not the
time of the pop; with an empty queue nothing is reported (R162, R182). -/
def Obligations.UpdatePopsOneSample : Prop :=
  ∀ s : State, s.main = .idle → s.drain.cb.isSnap = false →
    (∀ item rest, s.queue = item :: rest →
      exec .update s =
        .next { s with
          queue := rest,
          regs := { s.regs with
            analog := ⟨item.ch0.setWidth 16, item.ch1.setWidth 16, item.ch2.setWidth 16⟩ },
          out := s.out ++ [.event .analog item.timestamp
            (.analog ⟨item.ch0.setWidth 16, item.ch1.setWidth 16, item.ch2.setWidth 16⟩)],
          main := .coordEval }) ∧
    (s.queue = [] → exec .update s = .next { s with main := .coordEval })

/-- With an empty queue and the flag unchanged since the last transition, an update tick changes nothing (R183, R186). -/
def Obligations.UpdateWithoutChangeDoesNothing : Prop :=
  ∀ s : State, s.main = .idle → s.drain.cb.isSnap = false → s.queue = [] →
    (s.coord = .active ↔ s.eventsEnabled = true) →
    execThenTurns .update 1 s = .next s

/-- The enable transition without interruption: input delivery on, first channel selected, Channel B triggered, conversion
on, the drain timer armed one period ahead, the Coordinator active; no reply and no slot touched (R155, R184, R188). -/
def Obligations.EnableTransitionStartsAcquisition : Prop :=
  ∀ s : State, s.main = .coordEval → s.drain.cb.isSnap = false → s.coord = .inactive → s.eventsEnabled = true →
    s.configured = true →
    mainTurns 7 s =
      .next { s with
        diIrqEnabled := true,
        adc := { running := true, rr := 0, fifo := s.adc.fifo },
        chB := { s.chB with busy := true },
        drain := { s.drain with target := some (s.now + s.cfg.drainPeriodUs) },
        coord := .active,
        main := .idle }

/-- The disable transition, with the abort of the one busy channel landing directly after its request and nothing else
between the sub-steps: delivery off, the drain timer cancelled and its callback abandoned, the channels idle, conversion
stopped and its queue flushed, the hand-off queue flushed, every slot idle with one "train stopped" for each that was
active, in ascending order, and the Coordinator inactive. `PT_STOP` holds the mask of the last slot that was active, or
its old byte when none was (R111). The pins, the PWM generator and the AnalogBuffer are left (R156, R157, R169, R185,
R126, R228, R72). How many turns it takes is log entry 7. -/
def Obligations.DisableTransitionStopsEverything : Prop :=
  ∀ (s : State) (x : Channel), s.main = .coordEval → s.drain.cb.isSnap = false → s.coord = .active →
    s.eventsEnabled = false → s.chA.abortReq = false → s.chB.abortReq = false →
    s.chA.busy = (x == .a) → s.chB.busy = (x == .b) →
    ∃ t, andThen (mainTurns 4 s) (fun u => andThen (exec (.dmaAbortLand x) u) (mainTurns 260)) = .next t ∧
      t.out = s.out ++ slotNumbers.flatMap (fun m =>
        if (s.slot m).active then [.event .ptStop s.now (.byte (s.slot m).outputMask)] else []) ∧
      (∀ m, t.slot m = if (s.slot m).active then { s.slot m with active := false, periodic := none, ends := [] }
                       else s.slot m) ∧
      t = { s with
        main := .idle,
        diIrqEnabled := false,
        drain := { target := none, cb := .noCb },
        chA := { s.chA with busy := false },
        chB := { s.chB with busy := false },
        adc := { s.adc with running := false, fifo := [] },
        queue := [],
        coord := .inactive,
        regs := { s.regs with
          ptStop := ((slotNumbers.filter fun m => (s.slot m).active).map fun m => (s.slot m).outputMask).getLastD
            s.regs.ptStop },
        slots := t.slots,
        out := t.out }

/-- The abort loop tests both channels: it leaves only when both report idle, and otherwise requests again (R157). One pass
is not enough: a Channel A that completes before its abort lands has triggered Channel B, which no request covers
(R145, R157; 95_test_vectors.md SA7). In a run that is weakly fair (R12) every requested abort lands, and from a moment at
which neither channel is busy the loop ends (R149, R157, R292). Fairness alone does not give such a moment: a schedule may
let every abort land only after its channel has completed (notes/assumptions/21.md). -/
def Obligations.AbortLoopGoesOnUntilBothAreIdle : Prop :=
  (∀ s : State, s.main = .abortTest → s.drain.cb.isSnap = false →
    ((s.chA.busy = false ∧ s.chA.abortReq = false) ∧ s.chB.busy = false ∧ s.chB.abortReq = false →
      mainTurn s = .next { s with main := .stopConvert }) ∧
    (¬ ((s.chA.busy = false ∧ s.chA.abortReq = false) ∧ s.chB.busy = false ∧ s.chB.abortReq = false) →
      mainTurn s = .next { s with main := .abortRequest })) ∧
  (∀ (s : State) (w : Cell) (rest : List Cell), s.main = .abortRequest → s.drain.cb.isSnap = false →
    s.chA = { busy := true, idx := 2, abortReq := false } → s.chB = { busy := false, abortReq := false } →
    s.adc.fifo = w :: rest →
    ∃ t, andThen (mainTurn s) (fun u => andThen (execAll [.dmaAXfer, .dmaAbortLand .a] u) mainTurn) = .next t ∧
      t.main = .abortRequest ∧ t.chB = { busy := true, abortReq := false }) ∧
  (∀ σ : Nat → State, IsRun σ → WeaklyFair σ → ∀ n,
    ((σ n).chA.abortReq = true → ∃ k, n ≤ k ∧ (σ k).chA.busy = false ∧ (σ k).chA.abortReq = false) ∧
    ((σ n).chB.abortReq = true → ∃ k, n ≤ k ∧ (σ k).chB.busy = false ∧ (σ k).chB.abortReq = false) ∧
    ((σ n).main = .abortRequest ∨ (σ n).main = .abortTest → drainOff (σ n) = true →
      (σ n).chA.busy = false → (σ n).chB.busy = false → ∃ k, n ≤ k ∧ (σ k).main = .stopConvert))

/-! ## Configuration, reset and PWM -/

/-- CONFIGURE with the pipeline stopped records that it has run and changes nothing else (R141). Where the spec describes
nothing the model refuses, as 93_implementation_defined.md U8 says: CONFIGURE while the pipeline runs, and an enable
transition before CONFIGURE, at startPipeline (R284). -/
def Obligations.ConfigureIsRecordedAndRequired : Prop :=
  (∀ s : State, s.main = .idle → s.drain.cb.isSnap = false →
    (pipelineStopped s = true → exec .configure s = .next { s with configured := true }) ∧
    (pipelineStopped s = false → exec .configure s = .refused .configureWhileRunning)) ∧
  (∀ s : State, s.main = .coordEval → s.drain.cb.isSnap = false → s.coord = .inactive → s.eventsEnabled = true →
    s.configured = false → mainTurns 3 s = .refused .startUnconfigured)

/-- RESET is one silent step: every slot idle, every field of the register map and the pins zero, the Coordinator
inactive, input delivery, converter, channels, drain timer, queues and PWM off; `now`, `buf`, `diPins`,
`eventsEnabled`, `out` and `configured` are not written, nor are the PWM parts of a variant without PWM (R280). -/
def Obligations.ResetRestoresTheInitialState : Prop :=
  ∀ s : State, s.main = .idle → s.drain.cb.isSnap = false →
    ∃ t, exec .reset s = .next t ∧
      (∀ m, t.slot m = { s.slot m with active := false, periodic := none, ends := [] }) ∧
      t = { s with
        slots := t.slots,
        regs :=
          { diState := 0, doSet := 0, doClear := 0, doToggle := 0, ptStart := ⟨0, 0, 0, 0⟩, ptStop := 0,
            analog := ⟨0, 0, 0⟩,
            pwmCfg := if s.cfg.hasPwm then ⟨0, 0⟩ else s.regs.pwmCfg,
            pwmStop := if s.cfg.hasPwm then 0 else s.regs.pwmStop },
        doPins := 0,
        coord := .inactive,
        diIrqEnabled := false,
        adc := { running := false, rr := 0, fifo := [] },
        chA := { busy := false, idx := 0, abortReq := false },
        chB := { busy := false, abortReq := false },
        drain := { target := none, cb := .noCb },
        queue := [],
        pwm := if s.cfg.hasPwm then { running := false, top := 0, level := 0 } else s.pwm }

/-- The power-on values the spec gives (R49, R281): every slot idle, every field zero, the pins low, the Coordinator
inactive, nothing running, queued, pending or emitted, CONFIGURE not yet run. The last clause, that the main loop is
inside no operation, has no value in R49's table and is DEDUCED (notes/assumptions/1.md). -/
def Obligations.PowerOnValuesAreTheSpecs : Prop :=
  (∀ m, ((State.reset).slot m).active = false ∧ ((State.reset).slot m).periodic = none ∧
    ((State.reset).slot m).ends = []) ∧
  (∀ k, fieldValue State.reset k = .byte 0 ∨ fieldValue State.reset k = .ptStart ⟨0, 0, 0, 0⟩ ∨
    fieldValue State.reset k = .analog ⟨0, 0, 0⟩ ∨ fieldValue State.reset k = .pwmCfg ⟨0, 0⟩) ∧
  State.reset.doPins = 0 ∧ State.reset.coord = .inactive ∧ State.reset.diIrqEnabled = false ∧
  State.reset.adc = { running := false, rr := 0, fifo := [] } ∧
  State.reset.chA = { busy := false, idx := 0, abortReq := false } ∧
  State.reset.chB = { busy := false, abortReq := false } ∧
  State.reset.drain = { target := none, cb := .noCb } ∧ State.reset.queue = [] ∧
  State.reset.pwm = { running := false, top := 0, level := 0 } ∧ State.reset.out = [] ∧
  State.reset.configured = false ∧ State.reset.now.toNat < 2 ^ 63 ∧ State.reset.main = .idle

/-- A PWM configuration write stores its payload unclamped; with a non-zero frequency the generator then runs with the
period and level of the clamped duty and the write is acknowledged; with frequency zero the generator is left alone
and an error replaces the acknowledgement (R221, R222, R223). -/
def Obligations.PwmConfigWriteRunsOrIsRejected : Prop :=
  ∀ (s : State) (f d : Word), s.cfg.hasPwm = true → s.main = .idle → s.drain.cb.isSnap = false →
    exec (.wrPwmCfg ⟨f, d⟩) s =
      .next { s with regs := { s.regs with pwmCfg := ⟨f, d⟩ }, main := .pwmApply f (if d ≤ 100 then d else 100) } ∧
    (f ≠ 0 →
      execThenTurns (.wrPwmCfg ⟨f, d⟩) 1 s =
        .next { s with
          regs := { s.regs with pwmCfg := ⟨f, d⟩ },
          pwm := { running := true, top := s.cfg.pwmClkHz / f.toNat,
                   level := s.cfg.pwmClkHz / f.toNat * min d.toNat 100 / 100 },
          out := s.out ++ [.writeAck .pwmCfg] }) ∧
    (f = 0 →
      execThenTurns (.wrPwmCfg ⟨f, d⟩) 1 s =
        .next { s with regs := { s.regs with pwmCfg := ⟨f, d⟩ },
                       out := s.out ++ [.writeError .pwmCfg .invalidConfig] })

/-- The computed level lies less than one counter step below the asked share of the computed period and never exceeds it:
with `d` the clamped duty, `100 * level <= top * d < 100 * (level + 1)` and `level <= top` (R222, R224, R47). It says
nothing of the output: where `top` is 0 or above `PWM_TOP_MAX` the two numbers mean nothing to a real counter (U6 of
93_implementation_defined.md, notes/assumptions/11.md; `pwmMeaningful` rules that out). -/
def Obligations.PwmOnTimeIsWithinOneStep : Prop :=
  ∀ (s t : State) (f d : Word), s.cfg.hasPwm = true → s.main = .idle → s.drain.cb.isSnap = false → f ≠ 0 →
    execThenTurns (.wrPwmCfg ⟨f, d⟩) 1 s = .next t →
    100 * t.pwm.level ≤ t.pwm.top * min d.toNat 100 ∧ t.pwm.top * min d.toNat 100 < 100 * (t.pwm.level + 1) ∧
    t.pwm.level ≤ t.pwm.top ∧ (100 ≤ d.toNat → t.pwm.level = t.pwm.top) ∧ (d = 0 → t.pwm.level = 0)

/-- A PWM stop write stores its byte, stops the generator whatever the byte is, and is acknowledged (R225). -/
def Obligations.PwmStopWriteStops : Prop :=
  ∀ (s : State) (v : Byte), s.cfg.hasPwm = true → s.main = .idle → s.drain.cb.isSnap = false →
    exec (.wrPwmStop v) s = .next { s with regs := { s.regs with pwmStop := v }, main := .pwmHalt } ∧
    execThenTurns (.wrPwmStop v) 2 s =
      .next { s with regs := { s.regs with pwmStop := v }, pwm := { running := false, top := 0, level := 0 },
                     out := s.out ++ [.writeAck .pwmStop] }

/-- In a variant without PWM the four PWM operations do not exist: they are refused by name (R96, R99, R226). -/
def Obligations.PwmOperationsAreRefusedWithoutPwm : Prop :=
  ∀ (i : Instr) (s : State), i.isPwm = true → s.cfg.hasPwm = false → exec i s = .refused .noPwmVariant

/-! ## Invariants that every step keeps -/

/-- Every step keeps rule R24 (a) to (c): a periodic target implies an active slot, an idle slot has no alarm, and an
active slot's mask is its index. -/
def Obligations.EveryStepKeepsTheSlotsSound : Prop :=
  ∀ s t : State, step s = .next t → SlotsSound s → SlotsSound t

/-- Every step keeps rule R24 (d): the end alarms of a slot are in order, and none lies further ahead than one pulse
width. The premise is the spec's launch premise on device time (R266). -/
def Obligations.EveryStepKeepsTheEndAlarmsSorted : Prop :=
  ∀ s t : State, step s = .next t → timeFar s = true → EndsSound s → EndsSound t

/-- Every step keeps the bounds of the fields and queues: inputs that exist (R29), analog values of twelve bits (R36),
queues within their capacity (R42, R46), a PWM level within its period (R47), no PWM state without PWM (R226). -/
def Obligations.EveryStepKeepsTheDataBounds : Prop :=
  ∀ s t : State, step s = .next t → dataSound s = true → dataSound t = true

/-- Every step keeps the Coordinator, the main loop's position and the pipeline in agreement: with the Coordinator inactive
everything it starts is off, with it active the converter runs and exactly one channel is busy, and inside a
transition everything is as far as the sub-steps done have brought it (R147, R155, R156, R184, R185). -/
def Obligations.EveryStepKeepsThePipelineSound : Prop :=
  ∀ s t : State, step s = .next t → pipelineSound s = true → pipelineSound t = true

/-- The invariants hold right after reset. -/
def Obligations.InvariantsHoldAtReset : Prop :=
  SlotsSound State.reset ∧ EndsSound State.reset ∧ dataSound State.reset = true ∧ pipelineSound State.reset = true ∧
  State.reset.cfg.wf = true

/-! ## Rules of the whole machine -/

/-- The output stream is append-only: no step removes or reorders a reply (R48). -/
def Obligations.OutputIsAppendOnly : Prop :=
  ∀ s t : State, step s = .next t → ∃ added, t.out = s.out ++ added

/-- The output pins change only by the four digital-output writes, the two pulse callbacks and RESET; in particular no
turn of the main loop, so no cancel, changes them (R39, R65, R126). -/
def Obligations.OnlyTheListedStepsChangeThePins : Prop :=
  ∀ s t : State, step s = .next t → t.doPins ≠ s.doPins →
    ∃ frame rest i, s.sched = .op frame :: rest ∧ decode frame = .ok i ∧
      ((∃ v, i = .wrDoSet v) ∨ (∃ v, i = .wrDoClear v) ∨ (∃ v, i = .wrDoToggle v) ∨ (∃ v, i = .wrDoState v) ∨
       (∃ m, i = .ptFire m) ∨ (∃ m, i = .ptEnd m) ∨ i = .reset)

/-- Hardware steps write only hardware state: the register map and all its bytes, the slots, the pins, the Coordinator, the
queue, the drain timer, the PWM configuration and the output stream stay as they are (R65, R263). -/
def Obligations.HardwareStepsTouchNoSoftwareState : Prop :=
  ∀ (i : Instr) (s t : State), contextOf i = .hardware → exec i s = .next t →
    t = { s with now := t.now, adc := t.adc, buf := t.buf, chA := t.chA, chB := t.chB, diPins := t.diPins } ∧
    (∀ a, memByte t a = memByte s a) ∧ (t.buf ≠ s.buf → i = .dmaAXfer) ∧
    (∀ m, t.slot m = s.slot m)

/-- A callback writes only what the table of R65 lets the interrupt context write: `DI_STATE`, `DO_SET`, `DO_CLEAR`,
`PT_STOP`, the pins, the drain timer, the queue and, of the slots, the one it serves (R25, R65). -/
def Obligations.CallbacksTouchOnlyTheirOwnState : Prop :=
  ∀ (i : Instr) (s t : State), contextOf i = .interrupt → exec i s = .next t →
    t = { s with
      slots := t.slots, doPins := t.doPins, drain := t.drain, queue := t.queue, out := t.out,
      regs := { s.regs with diState := t.regs.diState, doSet := t.regs.doSet, doClear := t.regs.doClear,
                            ptStop := t.regs.ptStop } } ∧
    (∀ m, t.slot m ≠ s.slot m → i = .ptFire m ∨ i = .ptEnd m)

/-- The main loop, beginning an operation or taking a sub-step, never writes device time, the inputs, the flag or the
AnalogBuffer, nor the model's own parameters and schedule; it changes the PWM generator only in the PWM sub-steps and in
RESET, so the Coordinator leaves it alone (R25, R65, R228). -/
def Obligations.MainLoopKeepsItsHandsOff : Prop :=
  (∀ (i : Instr) (s t : State), contextOf i = .mainLoop → exec i s = .next t →
    t.now = s.now ∧ t.diPins = s.diPins ∧ t.eventsEnabled = s.eventsEnabled ∧ t.buf = s.buf ∧ t.cfg = s.cfg ∧
    t.sched = s.sched ∧ (t.pwm ≠ s.pwm → i = .reset)) ∧
  (∀ s t : State, mainTurn s = .next t →
    t.now = s.now ∧ t.diPins = s.diPins ∧ t.eventsEnabled = s.eventsEnabled ∧ t.buf = s.buf ∧ t.cfg = s.cfg ∧
    t.sched = s.sched ∧ (t.pwm ≠ s.pwm → s.main = .pwmHalt ∨ ∃ f d, s.main = .pwmApply f d))

/-- Every byte of the register block outside the fields a step stores to keeps its value. The fields stored to are those
of the table of R65: `fieldsStored` for the first or only step of an operation, `PT_STOP` for a cancelling sub-step of
the main loop, none for its other sub-steps. -/
def Obligations.OnlyStoredFieldsChangeTheirBytes : Prop :=
  (∀ (i : Instr) (s t : State) (a : Nat), exec i s = .next t →
    (∀ k ∈ fieldsStored i, a < fieldOffset k ∨ fieldOffset k + fieldWidth k ≤ a) → memByte t a = memByte s a) ∧
  (∀ (s t : State) (a : Nat), mainTurn s = .next t → a ≠ fieldOffset .ptStop → memByte t a = memByte s a) ∧
  (∀ (s t : State) (a : Nat), mainTurn s = .next t → (∀ m w p c, s.main ≠ .ptStartCancel m w p c) →
    (∀ m, s.main ≠ .ptStopCancel m) → (∀ m, s.main ≠ .cancelSlots m) → memByte t a = memByte s a)

/-- After a completed disable transition, and until an enable transition begins, no analog event and no digital-input event
is raised (R190): in a sound state with the Coordinator inactive and input delivery off, what a step adds to the
output holds neither. -/
def Obligations.NoAcquisitionEventWhileInactive : Prop :=
  ∀ s t : State, pipelineSound s = true → s.coord = .inactive → s.diIrqEnabled = false → step s = .next t →
    ∃ added, t.out = s.out ++ added ∧
      ∀ ts v, .event .analog ts v ∉ added ∧ .event .diState ts v ∉ added
end

