-- ==== Sys2Proof/Laws/Fairness.lean ====
section
/-! SUPPORT. Weak fairness asks nothing impossible: from every configured state that waits for no turn there is a weakly
fair run, the one whose turns go round all obliged steps. -/

namespace Sys2Proof.Machine

/-! ## What no step touches: the turns that wait, and the record that CONFIGURE has run -/

/-- The turns that wait and the record of CONFIGURE are kept. -/
def Keeps (s t : State) : Prop := t.sched = s.sched ∧ (s.configured = true → t.configured = true)

theorem Keeps.refl (s : State) : Keeps s s := ⟨rfl, id⟩

theorem Keeps.of_guarded {g : Bool} {f : State → State} {s t : State} (h : guarded g f s = .next t)
    (hf : Keeps s (f s)) : Keeps s t := by
  rcases guarded_next h with ⟨_, rfl⟩ | ⟨_, rfl⟩
  · exact hf
  · exact Keeps.refl _

theorem cancelSlot_keeps (m : Byte) (s : State) : Keeps s (cancelSlot m s) := by
  rcases cancelSlot_cases m s with ⟨_, h⟩ | ⟨_, h⟩ <;> rw [h] <;> exact ⟨rfl, id⟩

/-- A turn of the main loop keeps them, and is refused only at startPipeline before CONFIGURE. -/
theorem mainTurn_configured {s : State} (h : s.configured = true) : ∃ t, mainTurn s = .next t ∧ Keeps s t := by
  unfold mainTurn
  split
  · unfold subStep
    split
    case h_10 => exact ⟨_, if_pos h, ⟨rfl, id⟩⟩
    all_goals first
      | exact ⟨_, rfl, ⟨rfl, id⟩⟩
      | exact ⟨_, rfl, cancelSlot_keeps _ s⟩
      | (refine ⟨_, rfl, ?_⟩; unfold pwmApply; split <;> exact ⟨rfl, id⟩)
  · exact ⟨s, rfl, Keeps.refl s⟩

/-- A turn of an obliged operation always answers a next state, and keeps them. -/
theorem exec_obliged {i : Instr} {o : ObligedStep} (h : obligedStep i = some o) (s : State) :
    ∃ t, exec i s = .next t ∧ Keeps s t := by
  cases i <;> try cases h
  case update =>
    refine ⟨_, rfl, Keeps.of_guarded (g := mainFree s) (f := fun t => (popSample t).goto .coordEval) rfl ?_⟩
    unfold popSample
    dsimp only
    split <;> exact ⟨rfl, id⟩
  case ptFire m =>
    refine ⟨_, rfl, Keeps.of_guarded rfl ?_⟩
    unfold fireSlot
    split <;> exact ⟨rfl, id⟩
  case ptEnd m =>
    refine ⟨_, rfl, Keeps.of_guarded rfl ?_⟩
    unfold endSlot
    split
    · split <;> exact ⟨rfl, id⟩
    · exact ⟨rfl, id⟩
  case dmaAXfer =>
    refine ⟨_, rfl, Keeps.of_guarded rfl ?_⟩
    unfold transferA
    split
    · dsimp only; split <;> exact ⟨rfl, id⟩
    · exact ⟨rfl, id⟩
  case dmaAbortLand x =>
    refine ⟨_, rfl, Keeps.of_guarded rfl ?_⟩
    cases x <;> exact ⟨rfl, id⟩
  case drainFire =>
    refine ⟨_, rfl, Keeps.of_guarded rfl ?_⟩
    unfold drainEnter
    split <;> exact ⟨rfl, id⟩
  case drainPush =>
    refine ⟨_, rfl, Keeps.of_guarded rfl ?_⟩
    unfold drainReturn
    split <;> exact ⟨rfl, id⟩
  case tickTime delta =>
    exact ⟨_, rfl, Keeps.of_guarded (f := fun t => { t with now := t.now + delta }) rfl ⟨rfl, id⟩⟩
  all_goals exact ⟨_, rfl, Keeps.of_guarded rfl ⟨rfl, id⟩⟩

/-! ## One turn for each obliged step -/

/-- A turn that is the given step. -/
def fetchedOf : ObligedStep → Fetched
  | .subStep => .mainLoop
  | .update => .operation .update
  | .time => .operation (.tickTime 1)
  | .pulseFire m => .operation (.ptFire m)
  | .pulseEnd m => .operation (.ptEnd m)
  | .conversion => .operation (.adcConvert 0)
  | .transferA => .operation .dmaAXfer
  | .transferB => .operation .dmaBXfer
  | .abortLand x => .operation (.dmaAbortLand x)
  | .drainFire => .operation .drainFire
  | .drainRead => .operation .drainRead
  | .drainPush => .operation .drainPush
  | .inputEdge => .operation .diEdge

/-- It, as the schedule holds it. -/
def turnOf (o : ObligedStep) : Turn :=
  match fetchedOf o with
  | .mainLoop => .main
  | .operation i => .op (encode i)
  | .noOperation _ => .main

theorem decode_encode_pulse (m : Byte) :
    decode (encode (.ptFire m)) = .ok (.ptFire m) ∧ decode (encode (.ptEnd m)) = .ok (.ptEnd m) := by
  revert m
  decide +kernel

theorem fetch_turnOf (o : ObligedStep) (rest : List Turn) : fetch (turnOf o :: rest) = fetchedOf o := by
  cases o with
  | abortLand x => cases x <;> rfl
  | pulseFire m => simp only [turnOf, fetchedOf, fetch, decode_encode_pulse]
  | pulseEnd m => simp only [turnOf, fetchedOf, fetch, decode_encode_pulse]
  | _ => rfl

theorem obligedTurn_fetchedOf (o : ObligedStep) : obligedTurn (fetchedOf o) = some o := by cases o <;> rfl

/-- A shorter tick may always happen in place of a longer one. -/
theorem timeMayAdvance_one {s : State} {delta : Time} (h : timeMayAdvance s delta = true) :
    timeMayAdvance s 1 = true := by
  simp only [timeMayAdvance, Bool.and_eq_true, bne_iff_ne, ne_eq, decide_eq_true_eq] at h ⊢
  obtain ⟨⟨h0, h1⟩, h2⟩ := h
  have hd : (1 : Time).toNat ≤ delta.toNat := by
    have : delta.toNat ≠ 0 := fun e => h0 (BitVec.eq_of_toNat_eq e)
    show 1 ≤ delta.toNat
    omega
  refine ⟨⟨by decide, by omega⟩, ?_⟩
  cases hj : s.cfg.jitterMaxUs with
  | none => rfl
  | some j =>
    simp only [hj, Bool.or_eq_true, List.all_eq_true, decide_eq_true_eq] at h2 ⊢
    exact h2.imp id fun h a ha => by have := h a ha; omega

/-- Where the step is enabled, that turn of it has a true guard. -/
theorem turnGuard_fetchedOf {o : ObligedStep} {s : State} (h : stepEnabled o s) : turnGuard (fetchedOf o) s := by
  obtain ⟨f, hf, hg⟩ := h
  cases f with
  | noOperation e => exact hg.elim
  | mainLoop => cases hf; exact hg
  | operation i =>
    cases i <;> cases hf <;> first
      | exact hg
      | exact timeMayAdvance_one hg

/-- Every obliged step. -/
def obligedSteps : List ObligedStep :=
  [.subStep, .update, .time, .conversion, .transferA, .transferB, .abortLand .a, .abortLand .b, .drainFire, .drainRead,
   .drainPush, .inputEdge] ++ slotNumbers.map .pulseFire ++ slotNumbers.map .pulseEnd

theorem mem_slotNumbers (m : Byte) : m ∈ slotNumbers :=
  List.mem_map.2 ⟨m.toNat, List.mem_range.2 m.isLt, by simp⟩

theorem mem_obligedSteps (o : ObligedStep) : o ∈ obligedSteps := by
  cases o with
  | abortLand x => cases x <;> simp [obligedSteps]
  | _ => simp [obligedSteps, mem_slotNumbers]

/-! ## The run that goes round all of them -/

/-- Its turn after step `n`. -/
def roundTurn (n : Nat) : Turn := turnOf (obligedSteps[n % obligedSteps.length]'(Nat.mod_lt _ (by simp [obligedSteps])))

/-- Its state after `n` steps from `s`. -/
def roundRun (s : State) : Nat → State
  | 0 => s
  | n + 1 =>
    match step (roundRun s n) with
    | .next t => t.arrive [roundTurn n]
    | .fault _ => roundRun s n
    | .refused _ => roundRun s n

/-- A turn that is an obliged step is taken off the schedule and answered with a next state. -/
theorem step_obliged {s : State} {o : ObligedStep} (h : obligedTurn (fetch s.sched) = some o) (hc : s.configured = true) :
    ∃ t, step s = .next t ∧ t.sched = s.sched.tail ∧ t.configured = true := by
  unfold step
  cases hf : fetch s.sched with
  | mainLoop =>
    obtain ⟨t, h1, h2⟩ := mainTurn_configured (s := s.advance) hc
    exact ⟨t, h1, h2.1, h2.2 hc⟩
  | operation i =>
    rw [hf] at h
    obtain ⟨t, h1, h2⟩ := exec_obliged (i := i) h s.advance
    exact ⟨t, h1, h2.1, h2.2 hc⟩
  | noOperation e => rw [hf] at h; cases h

/-- At every moment one turn of the round waits, or none at the start. -/
theorem roundRun_spec {s : State} (hs : s.sched = []) (hc : s.configured = true) (n : Nat) :
    (roundRun s n).configured = true ∧ (roundRun s n).sched = (if n = 0 then [] else [roundTurn (n - 1)]) ∧
    ∃ t, step (roundRun s n) = .next t ∧ roundRun s (n + 1) = t.arrive [roundTurn n] := by
  have next : ∀ k, (roundRun s k).configured = true →
      (roundRun s k).sched = (if k = 0 then [] else [roundTurn (k - 1)]) →
      ∃ t, step (roundRun s k) = .next t ∧ roundRun s (k + 1) = t.arrive [roundTurn k] ∧ t.sched = [] ∧
        t.configured = true := by
    intro k h1 h2
    have ho : ∃ o, obligedTurn (fetch (roundRun s k).sched) = some o := by
      rw [h2]
      split
      · exact ⟨.subStep, rfl⟩
      · exact ⟨_, by rw [roundTurn, fetch_turnOf, obligedTurn_fetchedOf]⟩
    obtain ⟨o, ho⟩ := ho
    obtain ⟨t, ht, hsch, hcf⟩ := step_obliged ho h1
    refine ⟨t, ht, by simp only [roundRun, ht], ?_, hcf⟩
    rw [hsch, h2]
    split <;> rfl
  have inv : ∀ k, (roundRun s k).configured = true ∧
      (roundRun s k).sched = (if k = 0 then [] else [roundTurn (k - 1)]) := by
    intro k
    induction k with
    | zero => exact ⟨hc, hs⟩
    | succ k ih =>
      obtain ⟨t, _, h2, h3, h4⟩ := next k ih.1 ih.2
      rw [h2]
      refine ⟨h4, ?_⟩
      show t.sched ++ [roundTurn k] = _
      rw [h3]
      rfl
  obtain ⟨t, h1, h2, _, _⟩ := next n (inv n).1 (inv n).2
  exact ⟨(inv n).1, (inv n).2, t, h1, h2⟩

/-- From every configured state that waits for no turn there is a weakly fair run (R12). -/
theorem exists_weaklyFair_run {s : State} (hs : s.sched = []) (hc : s.configured = true) :
    ∃ σ : Nat → State, σ 0 = s ∧ IsRun σ ∧ WeaklyFair σ := by
  refine ⟨roundRun s, rfl, fun n => ?_, fun o n h => ?_⟩
  · obtain ⟨_, _, t, h1, h2⟩ := roundRun_spec hs hc n
    exact ⟨t, _, h1, h2⟩
  · obtain ⟨j, hj, ho⟩ := List.getElem_of_mem (mem_obligedSteps o)
    have hk : n ≤ n * obligedSteps.length + j + 1 := by
      have : 0 < obligedSteps.length := by simp [obligedSteps]
      have := Nat.le_mul_of_pos_right n this
      omega
    have hsch := (roundRun_spec hs hc (n * obligedSteps.length + j + 1)).2.1
    have hturn : roundTurn (n * obligedSteps.length + j) = turnOf o := by
      rw [roundTurn]
      simp only [Nat.mul_add_mod', Nat.mod_eq_of_lt hj, ho]
    rw [if_neg (Nat.succ_ne_zero _), Nat.add_sub_cancel, hturn] at hsch
    refine ⟨_, hk, ?_⟩
    unfold stepHappens
    rw [hsch, fetch_turnOf]
    exact ⟨obligedTurn_fetchedOf o, turnGuard_fetchedOf (h _ hk)⟩

end Sys2Proof.Machine
end

