-- ==== Sys2Proof/Laws/PerInstr.lean ====
section
/-! SUPPORT. Facts about every operation, one lemma per constructor: the frame of an operation is exactly as long as its
selector asks for (20_memory.md R51, R58; 30_encoding.md R81, R89). -/

namespace Sys2Proof.Laws.FrameLength

/-- The frame is the selector's two bytes and as many operand bytes as the selector asks for. -/
def Statement (i : Instr) : Prop := (encode i).length = 2 + operandLength i.selector

/-- It is enough to count the operand bytes. -/
theorem statement_of {i : Instr} {sel : BitVec 12} {n : Nat} (hsel : i.selector = sel)
    (hops : i.operandBytes.length = n) (hlen : operandLength sel = n) : Statement i := by
  simp only [Statement, encode, selBytes, hsel, hlen, List.length_append, List.length_cons, List.length_nil, hops]

theorem rdDiState : Statement .rdDiState := statement_of (sel := 0x000) (n := 0) rfl rfl (by decide)
theorem rdDoSet : Statement .rdDoSet := statement_of (sel := 0x001) (n := 0) rfl rfl (by decide)
theorem rdDoClear : Statement .rdDoClear := statement_of (sel := 0x002) (n := 0) rfl rfl (by decide)
theorem rdDoToggle : Statement .rdDoToggle := statement_of (sel := 0x003) (n := 0) rfl rfl (by decide)
theorem rdDoState : Statement .rdDoState := statement_of (sel := 0x004) (n := 0) rfl rfl (by decide)
theorem rdPtStart : Statement .rdPtStart := statement_of (sel := 0x005) (n := 0) rfl rfl (by decide)
theorem rdPtStop : Statement .rdPtStop := statement_of (sel := 0x006) (n := 0) rfl rfl (by decide)
theorem rdAnalog : Statement .rdAnalog := statement_of (sel := 0x007) (n := 0) rfl rfl (by decide)
theorem rdPwmCfg : Statement .rdPwmCfg := statement_of (sel := 0x008) (n := 0) rfl rfl (by decide)
theorem rdPwmStop : Statement .rdPwmStop := statement_of (sel := 0x009) (n := 0) rfl rfl (by decide)
theorem wrDiState (v : Byte) : Statement (.wrDiState v) := statement_of (sel := 0x100) (n := 1) rfl rfl (by decide)
theorem wrDoSet (v : Byte) : Statement (.wrDoSet v) := statement_of (sel := 0x101) (n := 1) rfl rfl (by decide)
theorem wrDoClear (v : Byte) : Statement (.wrDoClear v) := statement_of (sel := 0x102) (n := 1) rfl rfl (by decide)
theorem wrDoToggle (v : Byte) : Statement (.wrDoToggle v) := statement_of (sel := 0x103) (n := 1) rfl rfl (by decide)
theorem wrDoState (v : Byte) : Statement (.wrDoState v) := statement_of (sel := 0x104) (n := 1) rfl rfl (by decide)
theorem wrPtStart (p : PtStart) : Statement (.wrPtStart p) := statement_of (sel := 0x105) (n := 16) rfl rfl (by decide)
theorem wrPtStop (v : Byte) : Statement (.wrPtStop v) := statement_of (sel := 0x106) (n := 1) rfl rfl (by decide)
theorem wrAnalog (v : Analog) : Statement (.wrAnalog v) := statement_of (sel := 0x107) (n := 6) rfl rfl (by decide)
theorem wrPwmCfg (p : PwmCfg) : Statement (.wrPwmCfg p) := statement_of (sel := 0x108) (n := 8) rfl rfl (by decide)
theorem wrPwmStop (v : Byte) : Statement (.wrPwmStop v) := statement_of (sel := 0x109) (n := 1) rfl rfl (by decide)
theorem reset : Statement .reset := statement_of (sel := 0x200) (n := 0) rfl rfl (by decide)
theorem update : Statement .update := statement_of (sel := 0x201) (n := 0) rfl rfl (by decide)
theorem setEventsEnabled (b : Bool) : Statement (.setEventsEnabled b) := statement_of (sel := 0x202) (n := 1) rfl rfl (by decide)
theorem configure : Statement .configure := statement_of (sel := 0x203) (n := 0) rfl rfl (by decide)
theorem tickTime (delta : Time) : Statement (.tickTime delta) := statement_of (sel := 0x400) (n := 8) rfl rfl (by decide)
theorem ptFire (m : Byte) : Statement (.ptFire m) := statement_of (sel := 0x401) (n := 1) rfl rfl (by decide)
theorem ptEnd (m : Byte) : Statement (.ptEnd m) := statement_of (sel := 0x402) (n := 1) rfl rfl (by decide)
theorem adcConvert (w : Cell) : Statement (.adcConvert w) := statement_of (sel := 0x403) (n := 2) rfl rfl (by decide)
theorem dmaAXfer : Statement .dmaAXfer := statement_of (sel := 0x404) (n := 0) rfl rfl (by decide)
theorem dmaBXfer : Statement .dmaBXfer := statement_of (sel := 0x405) (n := 0) rfl rfl (by decide)
theorem dmaAbortLand (x : Channel) : Statement (.dmaAbortLand x) := statement_of (sel := 0x406) (n := 1) rfl (by cases x <;> rfl) (by decide)
theorem drainFire : Statement .drainFire := statement_of (sel := 0x407) (n := 0) rfl rfl (by decide)
theorem drainRead : Statement .drainRead := statement_of (sel := 0x408) (n := 0) rfl rfl (by decide)
theorem drainPush : Statement .drainPush := statement_of (sel := 0x409) (n := 0) rfl rfl (by decide)
theorem diChange (v : Byte) : Statement (.diChange v) := statement_of (sel := 0x40A) (n := 1) rfl rfl (by decide)
theorem diEdge : Statement .diEdge := statement_of (sel := 0x40B) (n := 0) rfl rfl (by decide)

end Sys2Proof.Laws.FrameLength
end

