-- ==== Sys2Proof/Machine/Text.lean ====
section
/-! DEFINITION. The textual form of operations (30_encoding.md rules R100, R101): one operation per line, `#` starts a
comment, numbers are decimal or `0x` hexadecimal. -/

namespace Sys2Proof.Machine

/-- A line: an operation (R100), a pseudo-operation (R101), or nothing but a comment. -/
inductive Line where
  | op (i : Instr)
  | run (t : Time)
  | round (v0 v1 v2 : Cell)
  | blank
  deriving DecidableEq, Repr

/-! ## Words and numbers -/

/-- The characters before a comment. -/
def withoutComment (cs : List Char) : List Char := cs.takeWhile fun c => c != '#'

/-- Split at blanks; `cur` holds the word being read, reversed. -/
def wordsFrom (cur : List Char) : List Char → List (List Char)
  | [] => if cur.isEmpty then [] else [cur.reverse]
  | c :: cs =>
    if c = ' ' then (if cur.isEmpty then wordsFrom [] cs else cur.reverse :: wordsFrom [] cs)
    else wordsFrom (c :: cur) cs

/-- The value of a digit in a base up to 16. -/
def digitOf (base : Nat) (c : Char) : Option Nat :=
  let n := c.toNat
  let d :=
    if 48 ≤ n ∧ n ≤ 57 then some (n - 48)
    else if 65 ≤ n ∧ n ≤ 70 then some (n - 55)
    else if 97 ≤ n ∧ n ≤ 102 then some (n - 87)
    else none
  d.filter fun k => k < base

/-- The digits after a prefix already read as `acc`. -/
def digitsFrom (base acc : Nat) : List Char → Option Nat
  | [] => some acc
  | c :: cs =>
    match digitOf base c with
    | some d => digitsFrom base (acc * base + d) cs
    | none => none

/-- A natural number, decimal or `0x` hexadecimal. -/
def naturalOf : List Char → Option Nat
  | [] => none
  | '0' :: 'x' :: [] => none
  | '0' :: 'x' :: cs => digitsFrom 16 0 cs
  | cs => digitsFrom 10 0 cs

/-- A natural number that fits `w` bits. -/
def numberOf (w : Nat) (cs : List Char) : Option (BitVec w) :=
  match naturalOf cs with
  | some n => if n < 2 ^ w then some (BitVec.ofNat w n) else none
  | none => none

/-- The count word: a number that fits 32 bits, or the negative of one no greater than 2^31 (R100). -/
def countOf : List Char → Option Word
  | '-' :: cs =>
    match naturalOf cs with
    | some n => if n ≤ 2 ^ 31 then some (0 - BitVec.ofNat 32 n) else none
    | none => none
  | cs => numberOf 32 cs

/-! ## Operations -/

/-- The field a name stands for (00_scope.md section 7). -/
def fieldNamed (w : List Char) : Option Field :=
  if w = "DI_STATE".toList then some .diState
  else if w = "DO_SET".toList then some .doSet
  else if w = "DO_CLEAR".toList then some .doClear
  else if w = "DO_TOGGLE".toList then some .doToggle
  else if w = "DO_STATE".toList then some .doState
  else if w = "PT_START".toList then some .ptStart
  else if w = "PT_STOP".toList then some .ptStop
  else if w = "ANALOG".toList then some .analog
  else if w = "PWM_CFG".toList then some .pwmCfg
  else if w = "PWM_STOP".toList then some .pwmStop
  else none

/-- The read of a field. -/
def readOp : Field → Instr
  | .diState => .rdDiState
  | .doSet => .rdDoSet
  | .doClear => .rdDoClear
  | .doToggle => .rdDoToggle
  | .doState => .rdDoState
  | .ptStart => .rdPtStart
  | .ptStop => .rdPtStop
  | .analog => .rdAnalog
  | .pwmCfg => .rdPwmCfg
  | .pwmStop => .rdPwmStop

/-- The write of a field with the operands of its line. -/
def writeOp (k : Field) (args : List (List Char)) : Option Instr :=
  match k, args with
  | .diState, [v] => (numberOf 8 v).map .wrDiState
  | .doSet, [v] => (numberOf 8 v).map .wrDoSet
  | .doClear, [v] => (numberOf 8 v).map .wrDoClear
  | .doToggle, [v] => (numberOf 8 v).map .wrDoToggle
  | .doState, [v] => (numberOf 8 v).map .wrDoState
  | .ptStop, [v] => (numberOf 8 v).map .wrPtStop
  | .pwmStop, [v] => (numberOf 8 v).map .wrPwmStop
  | .ptStart, [m, w, p, c] =>
    match numberOf 32 m, numberOf 32 w, numberOf 32 p, countOf c with
    | some m, some w, some p, some c => some (.wrPtStart ⟨m, w, p, c⟩)
    | _, _, _, _ => none
  | .analog, [a, b, c] =>
    match numberOf 16 a, numberOf 16 b, numberOf 16 c with
    | some a, some b, some c => some (.wrAnalog ⟨a, b, c⟩)
    | _, _, _ => none
  | .pwmCfg, [f, d] =>
    match numberOf 32 f, numberOf 32 d with
    | some f, some d => some (.wrPwmCfg ⟨f, d⟩)
    | _, _ => none
  | _, _ => none

/-- A line that is one word. -/
def plainOp (w : List Char) : Option Instr :=
  if w = "RESET".toList then some .reset
  else if w = "UPDATE".toList then some .update
  else if w = "CONFIGURE".toList then some .configure
  else if w = "XA".toList then some .dmaAXfer
  else if w = "XB".toList then some .dmaBXfer
  else if w = "DFIRE".toList then some .drainFire
  else if w = "DREAD".toList then some .drainRead
  else if w = "DPUSH".toList then some .drainPush
  else if w = "DIEDGE".toList then some .diEdge
  else none

/-- A line that is a word and one operand. -/
def operandLine (w a : List Char) : Option Line :=
  if w = "RD".toList then (fieldNamed a).map fun k => .op (readOp k)
  else if w = "EN".toList then
    (if a = ['1'] then some (.op (.setEventsEnabled true))
     else if a = ['0'] then some (.op (.setEventsEnabled false)) else none)
  else if w = "LAND".toList then
    (if a = ['A'] then some (.op (.dmaAbortLand .a))
     else if a = ['B'] then some (.op (.dmaAbortLand .b)) else none)
  else if w = "ADV".toList then (numberOf 64 a).map fun n => .op (.tickTime n)
  else if w = "FIRE".toList then (numberOf 8 a).map fun n => .op (.ptFire n)
  else if w = "END".toList then (numberOf 8 a).map fun n => .op (.ptEnd n)
  else if w = "CONV".toList then (numberOf 16 a).map fun n => .op (.adcConvert n)
  else if w = "DI".toList then (numberOf 8 a).map fun n => .op (.diChange n)
  else if w = "RUN".toList then (numberOf 64 a).map .run
  else none

/-- `ROUND` with its three words (R101). -/
def roundLine (a b c : List Char) : Option Line :=
  match numberOf 16 a, numberOf 16 b, numberOf 16 c with
  | some a, some b, some c => some (.round a b c)
  | _, _, _ => none

/-- The words of a line. -/
def lineOfWords : List (List Char) → Option Line
  | [] => some .blank
  | [w] => (plainOp w).map .op
  | [w, a] => operandLine w a
  | w :: k :: args =>
    if w = "WR".toList then
      match fieldNamed k with
      | some k => (writeOp k args).map .op
      | none => none
    else
      match args with
      | [b, c] => if w = "ROUND".toList then roundLine k b c else none
      | _ => none

/-- A line of text (R100); none where it is not one of the forms. -/
def parseLine (line : String) : Option Line := lineOfWords (wordsFrom [] (withoutComment line.toList))

/-- What a line does: its operation, or its sequence of operations, with at most `fuel` rounds of `RUN`. -/
def runLine (fuel : Nat) (l : Line) (s : State) : Host.Outcome State Fault Refusal :=
  match l with
  | .op i => exec i s
  | .run t => runUntil t fuel s
  | .round v0 v1 v2 => execAll (roundOps v0 v1 v2) s
  | .blank => .next s

end Sys2Proof.Machine
end

