-- ==== Sys2Proof/Tests/Slice0.lean ====
section
/-! SUPPORT. The model's own tests. Expected results are those of 95_test_vectors.md, named in each docstring, or are worked
out by hand from the rule cited. The last part shows, for each statement with hypotheses, a state that meets them. -/

namespace Sys2Proof.Tests

open Sys2Proof Sys2Proof.Machine

/-! ## The start state Z of 95_test_vectors.md section 0 -/

/-- The standard parameters. -/
def stdParams : Config.Params where
  nDoWired := 8
  doBasePin := 0
  nDi := 8
  regBase := 32
  drainPeriodUs := 1000
  adcConvPeriodUs := 2
  adcFifoDepth := 4
  jitterMaxUs := none
  hasPwm := true
  pwmClkHz := 1000000
  pwmTopMax := 65536

/-- The standard start state. -/
def stdState : State := { State.powerOn stdParams with configured := true }

/-- The start state of a device with four inputs and no PWM. -/
def plainState : State := { State.powerOn { stdParams with nDi := 4, hasPwm := false } with configured := true }

/-- A device whose callbacks are at most 10 microseconds late. -/
def punctualState : State := State.powerOn { stdParams with jitterMaxUs := some 10 }

/-- A test of the next state, false of a stop. -/
def after (o : Host.Outcome State Fault Refusal) (test : State → Bool) : Bool :=
  match o with
  | .next s => test s
  | .fault _ => false
  | .refused _ => false

/-- Slot 1 running with width 100, period 1000 and a given count, armed at time 0. -/
def running (count : Word) : State := armSlot 1 100 1000 count stdState

/-- Slot 1 in mid-pulse: started at 0, its end alarm at 100, the pin high. -/
def inPulse (nextDelay : Time) : State :=
  { stdState.setSlot 1
      { outputMask := 1, widthUs := 100, periodUs := 1000, remaining := 0, active := true,
        periodic := some 1000, nextDelay := nextDelay, ends := [100] } with
    now := 100, doPins := 0x01 }

/-- The acquisition running with Channel A busy at cell `idx`. -/
def acquiring (idx : Fin 4) : State :=
  { stdState with
    coord := .active, diIrqEnabled := true, adc := { running := true, rr := 0, fifo := [0x0777] },
    chA := { busy := true, idx := idx, abortReq := false }, buf := #v[0x0111, 0x0222, 0x0333],
    drain := { target := some 6000, cb := .noCb } }

/-- A sample. -/
def item (ts : Time) : SampleItem := { timestamp := ts, ch0 := 0x123, ch1 := 0x456, ch2 := 0x789 }

/-- The drain callback blocked in phase `Push`. -/
def pushing (queue : List SampleItem) : State :=
  { stdState with queue := queue, drain := { target := some 7000, cb := .push (item 3) } }

/-- The drain callback in phase `Snap`. -/
def snapping (cb : DrainCb) : State :=
  { stdState with now := 42, buf := #v[0xFFFF, 0xF000, 0x0FFF], drain := { target := some 40, cb := cb } }

/-! ## WellFormed refuses ill-formed operations (R89, R99, R217, R258) -/

theorem test_wf_tick_needs_a_microsecond : (Instr.tickTime 0).wellFormed stdParams = false := by decide
theorem test_wf_tick : (Instr.tickTime 1).wellFormed stdParams = true := by decide
theorem test_wf_input_that_does_not_exist : (Instr.diChange 0x10).wellFormed plainState.cfg = false := by decide
theorem test_wf_inputs_that_exist : (Instr.diChange 0x0F).wellFormed plainState.cfg = true := by decide
theorem test_wf_rdPwmCfg_without_pwm : Instr.rdPwmCfg.wellFormed plainState.cfg = false := by decide
theorem test_wf_rdPwmStop_without_pwm : Instr.rdPwmStop.wellFormed plainState.cfg = false := by decide
theorem test_wf_wrPwmCfg_without_pwm : (Instr.wrPwmCfg ⟨1000, 50⟩).wellFormed plainState.cfg = false := by decide
theorem test_wf_wrPwmStop_without_pwm : (Instr.wrPwmStop 1).wellFormed plainState.cfg = false := by decide

/-! ## Decoding: a frame for every operation, written out from R83, R84, R89 and R95 -/

/-- Class 0, access 0: selectors 0x000 to 0x009, no operand. -/
theorem test_decode_reads :
    decode [0x00, 0x00] = .ok .rdDiState ∧ decode [0x01, 0x00] = .ok .rdDoSet ∧
    decode [0x02, 0x00] = .ok .rdDoClear ∧ decode [0x03, 0x00] = .ok .rdDoToggle ∧
    decode [0x04, 0x00] = .ok .rdDoState ∧ decode [0x05, 0x00] = .ok .rdPtStart ∧
    decode [0x06, 0x00] = .ok .rdPtStop ∧ decode [0x07, 0x00] = .ok .rdAnalog ∧
    decode [0x08, 0x00] = .ok .rdPwmCfg ∧ decode [0x09, 0x00] = .ok .rdPwmStop := by
  refine ⟨?_, ?_, ?_, ?_, ?_, ?_, ?_, ?_, ?_, ?_⟩ <;> rfl

/-- Class 0, access 1: selectors 0x100 to 0x109, the payload in little-endian order (EN1, EN3, EN4, EN5, EN6). -/
theorem test_decode_writes :
    decode [0x00, 0x01, 0xFF] = .ok (.wrDiState 0xFF) ∧ decode [0x01, 0x01, 0x06] = .ok (.wrDoSet 0x06) ∧
    decode [0x02, 0x01, 0x05] = .ok (.wrDoClear 0x05) ∧ decode [0x03, 0x01, 0x03] = .ok (.wrDoToggle 0x03) ∧
    decode [0x04, 0x01, 0xF0] = .ok (.wrDoState 0xF0) ∧
    decode [0x05, 0x01, 0x03, 0x01, 0, 0, 0x0A, 0, 0, 0, 0x14, 0, 0, 0, 0, 0, 0, 0x80] =
      .ok (.wrPtStart ⟨0x103, 10, 20, 0x80000000⟩) ∧
    decode [0x06, 0x01, 0x04] = .ok (.wrPtStop 4) ∧
    decode [0x07, 0x01, 0x23, 0x01, 0x56, 0x04, 0x89, 0x07] = .ok (.wrAnalog ⟨0x0123, 0x0456, 0x0789⟩) ∧
    decode [0x08, 0x01, 0xE8, 0x03, 0, 0, 0x32, 0, 0, 0] = .ok (.wrPwmCfg ⟨1000, 50⟩) ∧
    decode [0x09, 0x01, 0x01] = .ok (.wrPwmStop 1) := by
  refine ⟨?_, ?_, ?_, ?_, ?_, ?_, ?_, ?_, ?_, ?_⟩ <;> rfl

/-- Class 1: selectors 0x200 to 0x203 (EN10). -/
theorem test_decode_hooks :
    decode [0x00, 0x02] = .ok .reset ∧ decode [0x01, 0x02] = .ok .update ∧
    decode [0x02, 0x02, 0x01] = .ok (.setEventsEnabled true) ∧
    decode [0x02, 0x02, 0x00] = .ok (.setEventsEnabled false) ∧ decode [0x03, 0x02] = .ok .configure := by
  refine ⟨?_, ?_, ?_, ?_, ?_⟩ <;> rfl

/-- Class 2: selectors 0x400 to 0x40B (EN9, and the lines of programs P1 and P4). -/
theorem test_decode_steps :
    decode [0x00, 0x04, 0x88, 0x13, 0, 0, 0, 0, 0, 0] = .ok (.tickTime 5000) ∧
    decode [0x01, 0x04, 0x01] = .ok (.ptFire 1) ∧ decode [0x02, 0x04, 0x01] = .ok (.ptEnd 1) ∧
    decode [0x03, 0x04, 0x23, 0xA1] = .ok (.adcConvert 0xA123) ∧ decode [0x04, 0x04] = .ok .dmaAXfer ∧
    decode [0x05, 0x04] = .ok .dmaBXfer ∧ decode [0x06, 0x04, 0x00] = .ok (.dmaAbortLand .a) ∧
    decode [0x06, 0x04, 0x01] = .ok (.dmaAbortLand .b) ∧ decode [0x07, 0x04] = .ok .drainFire ∧
    decode [0x08, 0x04] = .ok .drainRead ∧ decode [0x09, 0x04] = .ok .drainPush ∧
    decode [0x0A, 0x04, 0x05] = .ok (.diChange 5) ∧ decode [0x0B, 0x04] = .ok .diEdge := by
  refine ⟨?_, ?_, ?_, ?_, ?_, ?_, ?_, ?_, ?_, ?_, ?_, ?_, ?_⟩ <;> rfl

/-- EN11: these selectors are not assigned. -/
theorem test_decode_unassigned :
    decode [0x0A, 0x00] = .error (.unassigned 0x00A) ∧ decode [0x0A, 0x01, 0x00] = .error (.unassigned 0x10A) ∧
    decode [0x04, 0x02] = .error (.unassigned 0x204) ∧ decode [0x0C, 0x04] = .error (.unassigned 0x40C) ∧
    decode [0x00, 0x03] = .error (.unassigned 0x300) ∧ decode [0x00, 0x06] = .error (.unassigned 0x600) := by
  refine ⟨?_, ?_, ?_, ?_, ?_, ?_⟩ <;> rfl

/-- R58, R84, R89: a wrong length, a set bit above the selector, no such channel, no such boolean. -/
theorem test_decode_malformed :
    decode [0x01, 0x01] = .error .operandLength ∧ decode [0x01, 0x01, 0x00, 0x00] = .error .operandLength ∧
    decode [0x01, 0x11, 0x00] = .error .selectorBits ∧ decode [0x01] = .error .tooShort ∧
    decode [0x06, 0x04, 0x02] = .error .operandValue ∧ decode [0x02, 0x02, 0x02] = .error .operandValue := by
  refine ⟨?_, ?_, ?_, ?_, ?_, ?_⟩ <;> rfl

/-- The operation table numbers the selector's bits from 0; operand bytes it gives no bits are zero. -/
theorem test_table_words :
    decodeTableWord 16 0x105 = some (.wrPtStart ⟨0, 0, 0, 0⟩) ∧ decodeTableWord 16 0x40B = some .diEdge ∧
    decodeTableWord 16 0x300 = none ∧ decodeTableWord 24 0x040105 = some (.wrPtStart ⟨4, 0, 0, 0⟩) ∧
    decodeTableWord 24 0x040106 = some (.wrPtStop 4) := by
  refine ⟨?_, ?_, ?_, ?_, ?_⟩ <;> decide

/-! ## Digital I/O (43_digital_io.md) -/

/-- DG1 -/
theorem test_do_set : after (exec (.wrDoSet 0x06) { stdState with doPins := 0x01 })
    (fun t => t.doPins == 0x07 && t.regs.doSet == 0x06) = true := by decide +kernel
/-- DG2 -/
theorem test_do_clear : after (exec (.wrDoClear 0x05) { stdState with doPins := 0x07 })
    (fun t => t.doPins == 0x02 && t.regs.doClear == 0x05) = true := by decide +kernel
/-- DG3 -/
theorem test_do_toggle : after (exec (.wrDoToggle 0x03) { stdState with doPins := 0x02 })
    (fun t => t.doPins == 0x01) = true := by decide +kernel
/-- DG4 -/
theorem test_do_state : after (execThenTurns (.wrDoState 0xF0) 1 { stdState with doPins := 0x01 })
    (fun t => t.doPins == 0xF0 && t.out == [.writeAck .doState]) = true := by decide +kernel
/-- DG4, the read -/
theorem test_rd_do_state : after (exec .rdDoState { stdState with doPins := 0xF0 })
    (fun t => t.out == [.readReply .doState (.byte 0xF0)]) = true := by decide +kernel
/-- DG9: the latched value is read, not the inputs. -/
theorem test_rd_di_state : after (exec .rdDiState { stdState with diPins := 0x02 })
    (fun t => t.out == [.readReply .diState (.byte 0x00)]) = true := by decide +kernel
/-- DG12 -/
theorem test_rd_analog : after (exec .rdAnalog { stdState with queue := [item 5] })
    (fun t => t.out == [.readReply .analog (.analog ⟨0, 0, 0⟩)] && t.queue == [item 5]) = true := by decide +kernel
/-- X1 -/
theorem test_wr_di_state_refused :
    after (exec (.wrDiState 0xFF) { stdState with regs := { RegMap.zero with diState := 0x03 } })
      (fun t => t.out == [.writeError .diState .readOnly] && t.regs.diState == 0x03) = true := by decide +kernel
/-- X2 -/
theorem test_wr_analog_refused :
    after (exec (.wrAnalog ⟨1, 2, 3⟩) { stdState with regs := { RegMap.zero with analog := ⟨7, 8, 9⟩ } })
      (fun t => t.out == [.writeError .analog .readOnly] && t.regs.analog == ⟨7, 8, 9⟩) = true := by decide +kernel
/-- DG8 -/
theorem test_di_edge :
    after (exec .diEdge { stdState with diIrqEnabled := true, now := 700, diPins := 0x01 })
      (fun t => t.out == [.event .diState 700 (.byte 0x01)] && t.regs.diState == 0x01) = true := by decide +kernel
/-- DG9: with delivery disabled the edge callback is not enabled. -/
theorem test_di_edge_disabled :
    after (exec .diEdge { stdState with diPins := 0x02 }) (fun t => t.out == []) = true := by decide +kernel

/-! ## Pulse trains (40_pulse_train.md) -/

/-- S1, first fire: remaining 3 to 2, end alarm at 100, next target 1000. -/
theorem test_pt_fire : after (exec (.ptFire 1) (running 3))
    (fun t => t.out == [.event .doSet 0 (.byte 1)] && (t.slot 1).remaining == 2 && (t.slot 1).ends == [100] &&
      (t.slot 1).periodic == some 1000) = true := by decide +kernel
/-- PT3: a negative count is not decremented. -/
theorem test_pt_fire_infinite : after (exec (.ptFire 1) (running 0x80000000))
    (fun t => (t.slot 1).remaining == 0x80000000 && (t.slot 1).periodic == some 1000) = true := by decide +kernel
/-- S1, third fire: the count reaches zero, the sentinel is set and the timer stops. -/
theorem test_pt_fire_last : after (exec (.ptFire 1) (running 1))
    (fun t => (t.slot 1).nextDelay == 0 && (t.slot 1).periodic == none && (t.slot 1).active) = true := by decide +kernel
/-- S1: an end with more pulses to come raises "pulse ended" only. -/
theorem test_pt_end : after (exec (.ptEnd 1) (inPulse (-1000)))
    (fun t => t.out == [.event .doClear 100 (.byte 1)] && t.doPins == 0 && (t.slot 1).active) = true := by
  decide +kernel
/-- S1: the last end raises "train stopped" with the same time. -/
theorem test_pt_end_last : after (exec (.ptEnd 1) (inPulse 0))
    (fun t => t.out == [.event .doClear 100 (.byte 1), .event .ptStop 100 (.byte 1)] && !(t.slot 1).active) = true := by
  decide +kernel
/-- P2 line 3: restart in mid-pulse cancels, reports and re-arms, and leaves the pin high. -/
theorem test_pt_start_restart : after (execThenTurns (.wrPtStart ⟨0x101, 5, 6, 7⟩) 3 (inPulse (-1000)))
    (fun t => t.out == [.event .ptStop 100 (.byte 1), .writeAck .ptStart] && (t.slot 1).periodic == some 100 &&
      (t.slot 1).ends == [] && t.doPins == 0x01) = true := by decide +kernel
/-- PT11 -/
theorem test_pt_stop_idle : after (execThenTurns (.wrPtStop 7) 2 stdState)
    (fun t => t.out == [.writeAck .ptStop] && t.regs.ptStop == 7) = true := by decide +kernel
/-- PT12: a cancel in mid-pulse leaves the pin high. -/
theorem test_pt_stop_mid_pulse : after (execThenTurns (.wrPtStop 1) 2 (inPulse (-1000)))
    (fun t => t.out == [.event .ptStop 100 (.byte 1), .writeAck .ptStop] && t.doPins == 0x01 &&
      !(t.slot 1).active) = true := by decide +kernel
/-- SA16: while the drain callback is in flight no other callback runs. -/
theorem test_pt_fire_held : after (exec (.ptFire 1) (armSlot 1 100 1000 3 (pushing [])))
    (fun t => t.out == [] && (t.slot 1).periodic == some 0) = true := by decide +kernel

/-! ## Sampling (41_sampling.md) -/

/-- SA10 -/
theorem test_adc_wraps :
    after (exec (.adcConvert 0xC005) { stdState with adc := { running := true, rr := 2, fifo := [] } })
      (fun t => t.adc == { running := true, rr := 0, fifo := [0xC005] }) = true := by decide +kernel
/-- SA6 -/
theorem test_adc_full :
    after (exec (.adcConvert 0x1999) { stdState with adc := { running := true, rr := 0, fifo := [1, 2, 3, 4] } })
      (fun t => t.adc == { running := true, rr := 1, fifo := [1, 2, 3, 4] }) = true := by decide +kernel
/-- SA7: the third transfer completes the pass and triggers Channel B. -/
theorem test_dma_a_last : after (exec .dmaAXfer (acquiring 2))
    (fun t => t.buf == #v[0x0111, 0x0222, 0x0777] && t.chA == { busy := false, idx := 3, abortReq := false } &&
      t.chB.busy) = true := by decide +kernel
/-- SA12 -/
theorem test_dma_a_no_request :
    after (exec .dmaAXfer { stdState with chA := { busy := true, idx := 0, abortReq := false } })
      (fun t => t.chA.idx == 0) = true := by decide +kernel
/-- P4 line 4 -/
theorem test_dma_b : after (exec .dmaBXfer { stdState with chB := { busy := true, abortReq := false } })
    (fun t => t.chA == { busy := true, idx := 0, abortReq := false } && !t.chB.busy) = true := by decide +kernel
/-- SA7: a landing abort of Channel A leaves its cell index. -/
theorem test_abort_land :
    after (exec (.dmaAbortLand .a) { stdState with chA := { busy := true, idx := 2, abortReq := true } })
      (fun t => t.chA == { busy := false, idx := 2, abortReq := false }) = true := by decide +kernel
/-- SA14 -/
theorem test_abort_land_unrequested : after (exec (.dmaAbortLand .a) (acquiring 1))
    (fun t => t.chA.busy) = true := by decide +kernel
/-- SA5 -/
theorem test_drain_fire_disabled : after (exec .drainFire { acquiring 0 with now := 6000 })
    (fun t => t.drain == { target := none, cb := .noCb }) = true := by decide +kernel
/-- P4 line 7 -/
theorem test_drain_fire : after (exec .drainFire { acquiring 0 with now := 6000, eventsEnabled := true })
    (fun t => t.drain == { target := some 6000, cb := .snap0 }) = true := by decide +kernel
/-- SA1, the third read -/
theorem test_drain_read : after (exec .drainRead (snapping (.snap2 0xFFF 0x000)))
    (fun t => t.drain.cb == .push { timestamp := 42, ch0 := 0xFFF, ch1 := 0x000, ch2 := 0xFFF }) = true := by
  decide +kernel
/-- SA1, the second read masks the padding bits. -/
theorem test_drain_read_masks : after (exec .drainRead (snapping (.snap1 0xFFF)))
    (fun t => t.drain.cb == .snap2 0xFFF 0x000) = true := by decide +kernel
/-- P4 line 9 -/
theorem test_drain_push : after (exec .drainPush (pushing [item 1]))
    (fun t => t.queue == [item 1, item 3] && t.drain == { target := some 8000, cb := .noCb }) = true := by
  decide +kernel
/-- SA3: with two items queued the push is not enabled. -/
theorem test_drain_push_blocked : after (exec .drainPush (pushing [item 1, item 2]))
    (fun t => t.queue == [item 1, item 2] && t.drain.cb == .push (item 3)) = true := by decide +kernel

/-! ## The Coordinator, time, reset and PWM -/

/-- P4 line 11: the event carries the capture time. -/
theorem test_update_pops : after (exec .update { stdState with now := 6300, queue := [item 6000] })
    (fun t => t.out == [.event .analog 6000 (.analog ⟨0x0123, 0x0456, 0x0789⟩)] && t.queue == []) = true := by
  decide +kernel
/-- CO2 -/
theorem test_update_enables : after (execThenTurns .update 8 { stdState with now := 5000, eventsEnabled := true })
    (fun t => t.coord == .active && t.chB.busy && t.adc.running && t.diIrqEnabled && t.drain.target == some 6000 &&
      t.out == [] && t.main == .idle) = true := by decide +kernel
/-- CO8 -/
theorem test_set_events_enabled : after (exec (.setEventsEnabled true) stdState)
    (fun t => t.eventsEnabled && t.coord == .inactive && !t.diIrqEnabled) = true := by decide +kernel
/-- R141 -/
theorem test_configure : after (exec .configure (State.powerOn stdParams)) (fun t => t.configured) = true := by
  decide +kernel
/-- U8 -/
theorem test_configure_while_running :
    exec .configure (acquiring 0) = .refused .configureWhileRunning := rfl
/-- X4: 110 is within 10 of the target 100, 111 is not. -/
theorem test_tick_bounded :
    after (exec (.tickTime 20) { armSlot 1 5 6 7 { punctualState with now := 100 } with now := 90 })
      (fun t => t.now == 110) = true := by decide +kernel
theorem test_tick_too_late :
    after (exec (.tickTime 21) { armSlot 1 5 6 7 { punctualState with now := 100 } with now := 90 })
      (fun t => t.now == 90) = true := by decide +kernel
/-- X5: with the interrupt context occupied the bound is suspended. -/
theorem test_tick_while_occupied :
    after (exec (.tickTime 21) { armSlot 1 5 6 7 { punctualState with now := 100 } with
        now := 90, drain := { target := some 100, cb := .push (item 3) } })
      (fun t => t.now == 111) = true := by decide +kernel
/-- RS1 -/
theorem test_reset : after (exec .reset { inPulse (-1000) with queue := [item 1], out := [.writeAck .doSet] })
    (fun t => !(t.slot 1).active && t.doPins == 0 && t.queue == [] && t.out == [.writeAck .doSet]) = true := by
  decide +kernel
/-- RS3 -/
theorem test_reset_keeps :
    after (exec .reset { stdState with now := 123456, buf := #v[1, 2, 3], diPins := 5, eventsEnabled := true })
      (fun t => t.now == 123456 && t.buf == #v[1, 2, 3] && t.diPins == 5 && t.eventsEnabled && t.configured) = true := by
  decide +kernel
/-- P5 line 2: the duty is clamped, the field is not. -/
theorem test_pwm_cfg_clamps : after (execThenTurns (.wrPwmCfg ⟨1000, 150⟩) 1 stdState)
    (fun t => t.pwm == { running := true, top := 1000, level := 1000 } && t.regs.pwmCfg == ⟨1000, 150⟩) = true := by
  decide +kernel
/-- W6 -/
theorem test_pwm_cfg_zero :
    after (execThenTurns (.wrPwmCfg ⟨0, 50⟩) 1 { stdState with pwm := { running := true, top := 1000, level := 500 } })
      (fun t => t.out == [.writeError .pwmCfg .invalidConfig] && t.pwm.level == 500) = true := by decide +kernel
/-- W10 -/
theorem test_pwm_stop :
    after (execThenTurns (.wrPwmStop 0) 2 { stdState with pwm := { running := true, top := 1000, level := 500 } })
      (fun t => t.out == [.writeAck .pwmStop] && t.pwm == { running := false, top := 0, level := 0 }) = true := by
  decide +kernel
/-- EN12 -/
theorem test_pwm_absent : exec .rdPwmCfg plainState = .refused .noPwmVariant := rfl
/-- R12, R64: the next turn is taken off the schedule. -/
theorem test_step_takes_a_turn : after (step (stdState.withFetchWord 16 0x004))
    (fun t => t.out == [.readReply .doState (.byte 0)] && t.sched == []) = true := by decide +kernel
/-- R100 -/
theorem test_text :
    parseLine "WR PT_START 0x04 300 1000 -1 # P3" = some (.op (.wrPtStart ⟨4, 300, 1000, 0xFFFFFFFF⟩)) ∧
    parseLine "LAND C" = none := by decide +kernel
/-- R101: the sampling round of P4 line 5. -/
theorem test_round : after (execAll (roundOps 0xA123 0x3456 0x5789) { acquiring 0 with adc := { running := true, rr := 0, fifo := [] } })
    (fun t => t.buf == #v[0xA123, 0x3456, 0x5789]) = true := by decide +kernel

/-! ## States that meet the hypotheses of the statements

One theorem for each statement that has hypotheses, with its name after `meets_`: states and operands that meet them, for
each clause, at the ends of a range where there is one. -/

theorem meets_EncodeOfDecodeIsIdentity :
    decode [0x06, 0x04, 0x01] = .ok (.dmaAbortLand .b) ∧ decode [0x09, 0x00] = .ok .rdPwmStop := ⟨rfl, rfl⟩

theorem meets_UnassignedSelectorsAreRefused :
    (∀ i : Instr, i.selector ≠ 0x00A) ∧ (∀ i : Instr, i.selector ≠ 0x40C) ∧ ∀ i : Instr, i.selector ≠ 0xFFF := by
  refine ⟨?_, ?_, ?_⟩ <;> intro i <;> cases i <;> (simp only [Instr.selector]; decide)

theorem meets_ByteViewIsPackedLittleEndian : stdState.cfg.hasPwm = true ∧ plainState.cfg.hasPwm = false := ⟨rfl, rfl⟩

theorem meets_MemReadAfterMemWrite :
    (memWrite stdState 36 1 7).isSome = true ∧ (memWrite stdState 37 0 0).isSome = true ∧
    (memWrite plainState 4 2 0x1234).isSome = true ∧ (memWrite plainState 28 1 7).isSome = false := by
  refine ⟨?_, ?_, ?_, ?_⟩ <;> decide +kernel

theorem meets_StepRunsTheTurn :
    (stdState.withFrame [0x07, 0x00]).sched = .op [0x07, 0x00] :: [] ∧ decode [0x07, 0x00] = .ok .rdAnalog ∧
    decode [0x0A, 0x00] = .error (.unassigned 0x00A) ∧
    ({ stdState with sched := [.main] } : State).sched = .main :: [] ∧ stdState.sched = [] :=
  ⟨rfl, rfl, rfl, rfl, rfl⟩

theorem meets_FetchWordRunsTheOperation : decodeTableWord 16 0x201 = some .update := by decide

theorem meets_DisabledOperationsChangeNothing :
    ¬ operationGuard .dmaBXfer stdState ∧ ¬ operationGuard (.wrDoSet 1) (snapping .snap0) ∧
    (Instr.rdPwmStop.isPwm = true → stdState.cfg.hasPwm = true) ∧
    ¬ operationGuard .rdPwmStop { stdState with main := .coordEval } :=
  ⟨nofun, nofun, fun _ => rfl, nofun⟩

theorem meets_WellFormedOperationsComplete :
    Instr.wellFormed stdState.cfg (.tickTime 1) = true ∧ Instr.wellFormed stdState.cfg (.diChange 0xFF) = true ∧
    Instr.wellFormed stdState.cfg .configure = true ∧ pipelineStopped stdState = true := by
  refine ⟨?_, ?_, ?_, ?_⟩ <;> decide +kernel

theorem meets_ContextsDoNotNest :
    (pushing []).drain.cb ≠ .noCb ∧ (snapping .snap0).drain.cb.isSnap = true ∧
    ({ stdState with main := .coordEval } : State).main ≠ .idle ∧ contextOf .update = .mainLoop ∧
    (Instr.update.isPwm = true → stdState.cfg.hasPwm = true) :=
  ⟨nofun, rfl, nofun, rfl, nofun⟩

/-- One drain period after a capture: a push, `between`, and the next capture with its push. -/
def draining (between : List Turn) : State :=
  { pushing [] with
    eventsEnabled := true, coord := .active,
    sched := .op (encode .drainPush) :: between ++
      ([Instr.tickTime 8000, .drainFire, .drainRead, .drainRead, .drainRead, .drainPush].map (.op <| encode ·)) }

/-- One UPDATE between two pushes meets the assumption of R313. Both pushes happen, and at the second, which the run of six
steps more reaches, nothing waits. -/
theorem meets_ContextsDoNotNest_keepsUp :
    (draining [.op (encode .update), .main]).queue = [] ∧
    popsBetweenPushes 9 true (draining [.op (encode .update), .main]) = true ∧
    after (run 8 (draining [.op (encode .update), .main]))
      (fun t => t.drain.cb.isPush && t.drain.target.isSome && t.queue == [] && t.main == .idle) = true ∧
    after (run 9 (draining [.op (encode .update), .main]))
      (fun t => t.queue.length == 1 && t.drain.cb == .noCb && t.main == .idle) = true := by decide +kernel

/-- No UPDATE between them does not: the second item queues behind the first, though neither push blocks. -/
theorem test_no_pop_between_pushes :
    popsBetweenPushes 7 true (draining []) = false ∧
    after (run 7 (draining [])) (fun t => t.queue.length == 2 && t.drain.cb == .noCb) = true := by decide +kernel

/-- The main loop may begin an operation. -/
def Free (s : State) : Prop := s.main = .idle ∧ s.drain.cb.isSnap = false

/-- It may also while the drain callback waits in phase `Push`. -/
theorem meets_ReadsReplyTheField : Free stdState ∧ Free (pushing []) := ⟨⟨rfl, rfl⟩, ⟨rfl, rfl⟩⟩

theorem meets_PwmReadsReplyTheField : stdState.cfg.hasPwm = true ∧ Free stdState := ⟨rfl, rfl, rfl⟩

theorem meets_OutputWritesDriveThePins : Free stdState ∧ (∃ t, exec (.wrDoSet 0xFF) stdState = .next t) ∧
    (∃ t, exec (.wrDoClear 0xFF) stdState = .next t) ∧ (∃ t, exec (.wrDoToggle 0xFF) stdState = .next t) ∧
    ∃ t, exec (.wrDoState 0xFF) stdState = .next t :=
  ⟨⟨rfl, rfl⟩, ⟨_, rfl⟩, ⟨_, rfl⟩, ⟨_, rfl⟩, ⟨_, rfl⟩⟩

theorem meets_ReadOnlyWritesAreAnsweredWithAnError : Free plainState := ⟨rfl, rfl⟩

theorem meets_PtStartWriteCancelsAndArms : Free stdState ∧ Free (inPulse 0) := ⟨⟨rfl, rfl⟩, ⟨rfl, rfl⟩⟩

theorem meets_PtStopWriteCancels : Free (inPulse 0) ∧ ((inPulse 0).slot 1).active = true ∧
    Free stdState ∧ (stdState.slot 1).active = false := by
  refine ⟨⟨rfl, rfl⟩, ?_, ⟨rfl, rfl⟩, ?_⟩ <;> decide +kernel

theorem meets_PtFireStartsAPulse :
    (((running 1).slot 1).periodic = some 0 ∧ (0 : Time) ≤ (running 1).now ∧ (running 1).drain.cb = .noCb) ∧
    ((running 0x80000000).slot 1).periodic = some 0 := by
  refine ⟨⟨?_, ?_, ?_⟩, ?_⟩ <;> decide +kernel

theorem meets_PtEndEndsAPulse :
    (((inPulse 0).slot 1).ends = 100 :: [] ∧ (100 : Time) ≤ (inPulse 0).now ∧ (inPulse 0).drain.cb = .noCb ∧
      ((inPulse 0).slot 1).nextDelay = 0) ∧
    ((inPulse (-1000)).slot 1).ends = 100 :: [] ∧ ((inPulse (-1000)).slot 1).nextDelay ≠ 0 := by
  refine ⟨⟨?_, ?_, ?_, ?_⟩, ?_, ?_⟩ <;> decide +kernel

/-- The premises of the three clauses: counts 0 and 3 with 3 fires due, also where the next target is not due yet; one
fire at its time. -/
theorem meets_FiresAreCountedAndDoNotDrift :
    (let s : State := { running 0 with now := 2999 };
      (s.slot 1).periodic = some 0 ∧ s.drain.cb = .noCb ∧ (s.slot 1).periodUs ≠ 0 ∧
      (0 : Time).toNat + (3 - 1) * (s.slot 1).periodUs.toNat ≤ s.now.toNat ∧ (s.slot 1).remaining.toInt ≤ 0) ∧
    (let s : State := { running 3 with now := 2000 };
      (s.slot 1).periodic = some 0 ∧ s.drain.cb = .noCb ∧ (s.slot 1).periodUs ≠ 0 ∧
      (0 : Time).toNat + (3 - 1) * (s.slot 1).periodUs.toNat ≤ s.now.toNat ∧ 0 < (s.slot 1).remaining.toInt ∧
      ((2 : Nat) : Int) < (s.slot 1).remaining.toInt ∧ ((3 : Nat) : Int) = (s.slot 1).remaining.toInt) ∧
    (0 : Time).toNat + (1 - 1) * ((running 3).slot 1).periodUs.toNat ≤ (running 3).now.toNat := by
  decide +kernel

/-- A train of period zero; and, with the slots as its fire leaves them, a state in which its one end alarm is due. -/
theorem meets_PeriodZeroMakesOnePulse :
    (let s := armSlot 1 100 0 5 stdState;
      (s.slot 1).periodic = some 0 ∧ (0 : Time) ≤ s.now ∧ s.drain.cb = .noCb ∧ (s.slot 1).periodUs = 0) ∧
    after (exec (.ptFire 1) (armSlot 1 100 0 5 stdState)) (fun t =>
      let u : State := { t with now := 100 }
      (u.slot 1).ends == [100] && decide ((100 : Time) ≤ u.now) && u.drain.cb == .noCb) = true := by
  decide +kernel

/-- One pulse, one of width zero, and the longest train a signed count can ask for; with a finite lateness, the one alarm
(`mem_armedTargets`), another slot's, as early as the premise allows. -/
theorem meets_TrainEventsAlternate :
    stdState.cfg.jitterMaxUs = none ∧ stdState.drain.cb = .noCb ∧
    ((0 < 1 ∧ 1 < 2 ^ 31) ∧ (100 : Word).toNat < (1000 : Word).toNat ∧ (0 : Word).toNat < (1 : Word).toNat ∧
      stdState.now.toNat + 1 * (1000 : Word).toNat < 2 ^ 64) ∧
    (2 ^ 31 - 1 < 2 ^ 31 ∧ (0xFFFFFFFE : Word).toNat < (0xFFFFFFFF : Word).toNat ∧
      stdState.now.toNat + (2 ^ 31 - 1) * (0xFFFFFFFF : Word).toNat < 2 ^ 64) ∧
    (let s : State := { armSlot 2 5 6 7 { punctualState with now := 990 } with now := 0 };
      s.cfg.jitterMaxUs = some 10 ∧ armedTargets s = [990] ∧
      s.now.toNat + 1 * (1000 : Word).toNat ≤ (990 : Time).toNat + 10) := by
  decide +kernel

/-- A pulse of width zero (R120): started and ended with one time, then stopped. -/
theorem test_pulse_of_width_zero : after (execAll (pulseOps 1 0 1000 1) (armSlot 1 0 1000 1 stdState))
    (fun t => t.out == [.event .doSet 0 (.byte 1), .event .doClear 0 (.byte 1), .event .ptStop 0 (.byte 1)]) = true := by
  decide +kernel

theorem meets_FlagAndInputsChangeAlone : ∀ k, plainState.cfg.nDi ≤ k → (0x0F : Byte).getLsbD k = false := by
  intro k hk
  have hk : 4 ≤ k := hk
  rcases Nat.lt_or_ge k 8 with h | h
  · interval_cases k <;> rfl
  · exact BitVec.getLsbD_of_ge _ _ h

theorem meets_InputEdgeLatchesTheByte :
    (let s : State := { stdState with diIrqEnabled := true, diPins := 0x80 };
      s.diIrqEnabled = true ∧ s.diPins ≠ s.regs.diState ∧ s.drain.cb = .noCb) ∧
    stdState.diIrqEnabled = false ∧ stdState.diPins = stdState.regs.diState ∧ (pushing []).drain.cb ≠ .noCb := by
  decide +kernel

/-- X4 and X6: the last moment allowed and the first that is not (`mem_armedTargets` says what an armed target is). -/
theorem meets_TimeAdvancesWithinTheJitterBound :
    (let s : State := { armSlot 1 5 6 7 { punctualState with now := 100 } with now := 90 };
      s.cfg.jitterMaxUs = some 10 ∧ s.drain.cb = .noCb ∧ (s.slot 1).periodic = some 100 ∧
      ((armedTargets s).all fun a => decide (s.now.toNat + (20 : Time).toNat ≤ a.toNat + 10)) = true ∧
      (100 : Time).toNat + 10 < s.now.toNat + (21 : Time).toNat) ∧
    (let s : State := { stdState with now := 0xFFFFFFFFFFFFFFFB };
      s.now.toNat + (4 : Time).toNat < 2 ^ 64 ∧ 2 ^ 64 ≤ s.now.toNat + (5 : Time).toNat) := by
  decide +kernel

theorem meets_TimeOnlyMovesForward :
    step stdState = .next stdState ∧
    after (step (stdState.withFrame (encode (.tickTime 5)))) (fun t => t.now == 5) = true :=
  ⟨rfl, by decide +kernel⟩

theorem meets_ConversionQueuesTheWord :
    (let s : State := { stdState with adc := { running := true, rr := 0, fifo := [1, 2, 3] } };
      s.adc.running = true ∧ s.adc.fifo.length < s.cfg.adcFifoDepth) ∧
    (let s : State := { stdState with adc := { running := true, rr := 0, fifo := [1, 2, 3, 4] } };
      s.adc.running = true ∧ s.cfg.adcFifoDepth ≤ s.adc.fifo.length) ∧ stdState.adc.running = false := by
  decide +kernel

theorem meets_ChannelAMovesOneWord :
    ∀ i : Fin 4, (acquiring i).chA.busy = true ∧ (acquiring i).adc.fifo = 0x0777 :: [] ∧ (acquiring i).chA.idx = i :=
  fun _ => ⟨rfl, rfl, rfl⟩

theorem meets_ChannelBRearmsChannelA :
    ({ stdState with chB := { busy := true, abortReq := false } } : State).chB.busy = true ∧
    stdState.chB.busy = false := ⟨rfl, rfl⟩

theorem meets_AbortLandsOnItsChannel :
    ({ stdState with chA := { busy := true, idx := 3, abortReq := true } } : State).chA.abortReq = true ∧
    ({ stdState with chB := { busy := true, abortReq := true } } : State).chB.abortReq = true ∧
    stdState.chA.abortReq = false ∧ stdState.chB.abortReq = false := ⟨rfl, rfl, rfl, rfl⟩

theorem meets_RoundFillsTheBuffer :
    let s : State := { acquiring 0 with adc := { running := true, rr := 2, fifo := [] } }
    s.adc.running = true ∧ s.adc.fifo = [] ∧ 0 < s.cfg.adcFifoDepth ∧ s.chA.busy = true ∧ s.chA.idx = 0 ∧
    s.chB.busy = false := by decide +kernel

theorem meets_DrainFireEntersOrSelfCancels :
    (acquiring 0).drain.cb = .noCb ∧ (acquiring 0).drain.target = some 6000 ∧ (acquiring 0).eventsEnabled = false ∧
    ({ acquiring 0 with eventsEnabled := true } : State).eventsEnabled = true ∧
    (6000 : Time) ≤ ({ acquiring 0 with now := 6000 } : State).now ∧
    ({ acquiring 0 with now := 5999 } : State).now < 6000 ∧ stdState.drain.target = none := by decide +kernel

theorem meets_DrainReadsTheCellsInOrder :
    (snapping .snap0).drain.cb = .snap0 ∧ (snapping (.snap1 1)).drain.cb = .snap1 1 ∧
    (snapping (.snap2 1 2)).drain.cb = .snap2 1 2 ∧ (pushing []).drain.cb.isSnap = false := ⟨rfl, rfl, rfl, rfl⟩

theorem meets_DrainPushQueuesOrBlocks :
    (pushing [item 1]).drain = { target := some 7000, cb := .push (item 3) } ∧
    (pushing [item 1]).queue.length < 2 ∧ 2 ≤ (pushing [item 1, item 2]).queue.length := by decide +kernel

/-- At startPipeline, with what follows it: its four sub-steps, Channel B's transfer, `k` conversions each moved by Channel
A, one drain period, and the first DRAIN_FIRE. -/
def restarting (k : Nat) : State :=
  { stdState with
    main := .startSelect, eventsEnabled := true, diIrqEnabled := true, buf := #v[0x0111, 0x0222, 0x0333],
    sched := [.main, .main, .main, .main] ++
      ([Instr.dmaBXfer] ++ (List.replicate k [Instr.adcConvert 0x0777, .dmaAXfer]).flatten ++ [Instr.tickTime 1000, .drainFire]).map
        (fun i => .op (encode i)) }

/-- Three transfers before the first fire meet the assumption of R298, and the fire happens. -/
theorem meets_NoStaleSampleAfterARestart :
    (restarting 3).main = .startSelect ∧ pipelineSound (restarting 3) = true ∧
    restartsFresh 13 (some 0) (restarting 3) = true ∧
    after (run 13 (restarting 3)) (fun t => t.drain.cb == .snap0 && t.sched == []) = true := by decide +kernel

/-- Two transfers do not. -/
theorem test_stale_restart :
    restartsFresh 11 (some 0) (restarting 2) = false ∧
    after (run 11 (restarting 2)) (fun t => t.drain.cb == .snap0 && t.buf == #v[0x0777, 0x0777, 0x0333]) = true := by
  decide +kernel

/-- A restart whose every conversion draws a word that leaves its channel's number when divided by three. -/
def sorted : State :=
  { stdState with
    main := .startSelect, eventsEnabled := true, diIrqEnabled := true, buf := #v[3, 4, 5],
    sched := [.main, .main, .main, .main] ++
      ([Instr.dmaBXfer] ++ roundOps 0x300 0x301 0x302 ++ [Instr.adcConvert 0x303, Instr.dmaAXfer]).map (.op <| encode ·) }

/-- It meets the assumption of R291 in both wordings, and the premise on the draws and on the cells for that kind of word. -/
theorem meets_RoundFillsTheBuffer_keepsUp :
    sorted.main = .startSelect ∧ pipelineSound sorted = true ∧ 0 < sorted.cfg.adcFifoDepth ∧
    channelsKeepUp 14 false sorted = true ∧ resultQueueShort 14 sorted = true ∧
    (∀ k < 14, after (run k sorted) (fun u =>
      match fetch u.sched with
      | .operation (.adcConvert w) => w.toNat % 3 == u.adc.rr
      | _ => true) = true) ∧
    (∀ i : Fin 3, sorted.buf[i].toNat % 3 = i) ∧
    after (run 14 sorted) (fun t => t.buf == #v[0x303, 0x301, 0x302]) = true := by decide +kernel

/-- Two conversions with no transfer between them do not. -/
theorem test_channel_falls_behind :
    let s : State :=
      { acquiring 0 with
        adc := { running := true, rr := 0, fifo := [] },
        sched := [.op (encode (.adcConvert 1)), .op (encode (.adcConvert 2))] }
    channelsKeepUp 2 false s = false ∧ resultQueueShort 2 s = false := by decide +kernel

theorem meets_UpdatePopsOneSample :
    Free (pushing [item 1]) ∧ (pushing [item 1]).queue = item 1 :: [] ∧ stdState.queue = [] :=
  ⟨⟨rfl, rfl⟩, rfl, rfl⟩

theorem meets_UpdateWithoutChangeDoesNothing :
    (Free stdState ∧ stdState.queue = [] ∧ (stdState.coord = .active ↔ stdState.eventsEnabled = true)) ∧
    (let s : State := { acquiring 0 with eventsEnabled := true };
      Free s ∧ s.queue = [] ∧ (s.coord = .active ↔ s.eventsEnabled = true)) :=
  ⟨⟨⟨rfl, rfl⟩, rfl, by decide⟩, ⟨⟨rfl, rfl⟩, rfl, by decide⟩⟩

theorem meets_EnableTransitionStartsAcquisition :
    let s : State := { stdState with main := .coordEval, eventsEnabled := true }
    s.main = .coordEval ∧ s.drain.cb.isSnap = false ∧ s.coord = .inactive ∧ s.eventsEnabled = true ∧
    s.configured = true := ⟨rfl, rfl, rfl, rfl, rfl⟩

theorem meets_DisableTransitionStopsEverything :
    (let s : State := { acquiring 1 with main := .coordEval };
      s.main = .coordEval ∧ s.drain.cb.isSnap = false ∧ s.coord = .active ∧ s.eventsEnabled = false ∧
      s.chA.abortReq = false ∧ s.chB.abortReq = false ∧ s.chA.busy = (Channel.a == .a) ∧
      s.chB.busy = (Channel.a == .b)) ∧
    (let s : State :=
        { acquiring 0 with
          main := .coordEval, chA := { busy := false, idx := 3, abortReq := false },
          chB := { busy := true, abortReq := false } };
      s.chA.abortReq = false ∧ s.chB.abortReq = false ∧ s.chA.busy = (Channel.b == .a) ∧
      s.chB.busy = (Channel.b == .b)) := by decide +kernel

/-- The last part: weakly fair runs with an abort of each channel requested, and with both channels idle in the loop. -/
theorem meets_AbortLoopGoesOnUntilBothAreIdle :
    (let s : State := { stdState with main := .abortTest };
      s.main = .abortTest ∧ s.drain.cb.isSnap = false ∧
      ((s.chA.busy = false ∧ s.chA.abortReq = false) ∧ s.chB.busy = false ∧ s.chB.abortReq = false)) ∧
    (let s : State := { acquiring 0 with main := .abortTest };
      ¬ ((s.chA.busy = false ∧ s.chA.abortReq = false) ∧ s.chB.busy = false ∧ s.chB.abortReq = false)) ∧
    (let s : State := { acquiring 2 with main := .abortRequest };
      s.main = .abortRequest ∧ s.drain.cb.isSnap = false ∧ s.chA = { busy := true, idx := 2, abortReq := false } ∧
      s.chB = { busy := false, abortReq := false } ∧ s.adc.fifo = 0x0777 :: []) ∧
    (∃ σ : Nat → State, IsRun σ ∧ WeaklyFair σ ∧ (σ 0).chA.abortReq = true ∧ (σ 0).chB.abortReq = true) ∧
    (∃ σ : Nat → State, IsRun σ ∧ WeaklyFair σ ∧ (σ 0).main = .abortTest ∧ drainOff (σ 0) = true ∧
      (σ 0).chA.busy = false ∧ (σ 0).chB.busy = false) := by
  refine ⟨by decide +kernel, by decide +kernel, by decide +kernel, ?_, ?_⟩
  · obtain ⟨σ, h, hr, hf⟩ := exists_weaklyFair_run (s :=
      { stdState with
        chA := { busy := true, idx := 1, abortReq := true }, chB := { busy := false, abortReq := true } }) rfl rfl
    exact ⟨σ, hr, hf, by rw [h], by rw [h]⟩
  · obtain ⟨σ, h, hr, hf⟩ := exists_weaklyFair_run (s := { stdState with main := .abortTest }) rfl rfl
    exact ⟨σ, hr, hf, by rw [h], by rw [h]; rfl, by rw [h]; rfl, by rw [h]; rfl⟩

theorem meets_ConfigureIsRecordedAndRequired :
    Free stdState ∧ pipelineStopped stdState = true ∧ Free (acquiring 0) ∧ pipelineStopped (acquiring 0) = false ∧
    (let s : State := { State.powerOn stdParams with main := .coordEval, eventsEnabled := true };
      s.main = .coordEval ∧ s.drain.cb.isSnap = false ∧ s.coord = .inactive ∧ s.eventsEnabled = true ∧
      s.configured = false) :=
  ⟨⟨rfl, rfl⟩, rfl, ⟨rfl, rfl⟩, rfl, rfl, rfl, rfl, rfl, rfl⟩

theorem meets_ResetRestoresTheInitialState : Free (acquiring 0) ∧ Free (pushing [item 1]) ∧ Free plainState :=
  ⟨⟨rfl, rfl⟩, ⟨rfl, rfl⟩, ⟨rfl, rfl⟩⟩

theorem meets_PwmConfigWriteRunsOrIsRejected :
    stdState.cfg.hasPwm = true ∧ Free stdState ∧ (1 : Word) ≠ 0 ∧ (0xFFFFFFFF : Word) ≠ 0 :=
  ⟨rfl, ⟨rfl, rfl⟩, by decide, by decide⟩

/-- Duties 0, 100 and the largest word. -/
theorem meets_PwmOnTimeIsWithinOneStep :
    stdState.cfg.hasPwm = true ∧ Free stdState ∧ (3 : Word) ≠ 0 ∧
    (∃ t, execThenTurns (.wrPwmCfg ⟨3, 0⟩) 1 stdState = .next t) ∧
    (∃ t, execThenTurns (.wrPwmCfg ⟨3, 100⟩) 1 stdState = .next t) ∧
    (∃ t, execThenTurns (.wrPwmCfg ⟨3, 0xFFFFFFFF⟩) 1 stdState = .next t) ∧ 100 ≤ (100 : Word).toNat :=
  ⟨rfl, ⟨rfl, rfl⟩, by decide, ⟨_, rfl⟩, ⟨_, rfl⟩, ⟨_, rfl⟩, by decide⟩

theorem meets_PwmStopWriteStops : stdState.cfg.hasPwm = true ∧ Free stdState := ⟨rfl, rfl, rfl⟩

theorem meets_PwmOperationsAreRefusedWithoutPwm :
    (Instr.wrPwmStop 0).isPwm = true ∧ Instr.rdPwmCfg.isPwm = true ∧ plainState.cfg.hasPwm = false := ⟨rfl, rfl, rfl⟩

/-- A state with a running train is sound. -/
theorem running_sound (count : Word) : SlotsSound (running count) ∧ EndsSound (running count) := by
  have idle : ∀ m, stdState.slot m = Slot.zero := fun m => by
    simp [State.slot, stdState, State.powerOn]
  constructor <;> intro m <;> rw [running, slot_armSlot, idle] <;> split <;> rename_i h
  · rw [h]; rfl
  · rfl
  · rfl
  · rfl

/-- A step from the state with a running train: the train's first fire. -/
def firing (count : Word) : State := (running count).withFrame (encode (.ptFire 1))

theorem meets_EveryStepKeepsTheSlotsSound : (∃ t, step (firing 3) = .next t) ∧ SlotsSound (firing 3) :=
  ⟨⟨_, rfl⟩, (running_sound 3).1⟩

theorem meets_EveryStepKeepsTheEndAlarmsSorted :
    (∃ t, step (firing 3) = .next t) ∧ timeFar (firing 3) = true ∧ EndsSound (firing 3) :=
  ⟨⟨_, rfl⟩, rfl, (running_sound 3).2⟩

theorem meets_EveryStepKeepsTheDataBounds : (∃ t, step (firing 3) = .next t) ∧ dataSound (firing 3) = true :=
  ⟨⟨_, rfl⟩, by decide +kernel⟩

/-- With the acquisition running, and inside the abort loop. -/
theorem meets_EveryStepKeepsThePipelineSound :
    (∃ t, step (acquiring 2) = .next t) ∧ pipelineSound (acquiring 2) = true ∧
    (let s : State :=
        { acquiring 2 with main := .abortRequest, diIrqEnabled := false, drain := { target := none, cb := .noCb } };
      (∃ t, step s = .next t) ∧ pipelineSound s = true) :=
  ⟨⟨_, rfl⟩, by decide +kernel, ⟨_, rfl⟩, by decide +kernel⟩

theorem meets_OutputIsAppendOnly : ∃ t, step (firing 1) = .next t := ⟨_, rfl⟩

theorem meets_OnlyTheListedStepsChangeThePins :
    after (step (stdState.withFrame (encode (.wrDoSet 1)))) (fun t => t.doPins != stdState.doPins) = true ∧
    after (step (firing 1)) (fun t => t.doPins != (firing 1).doPins) = true := by decide +kernel

theorem meets_HardwareStepsTouchNoSoftwareState :
    contextOf .dmaAXfer = .hardware ∧ after (exec .dmaAXfer (acquiring 0)) (fun t => t.buf != (acquiring 0).buf) = true :=
  ⟨rfl, by decide +kernel⟩

theorem meets_CallbacksTouchOnlyTheirOwnState :
    contextOf (.ptFire 1) = .interrupt ∧
    after (exec (.ptFire 1) (running 1)) (fun t => t.slot 1 != (running 1).slot 1) = true :=
  ⟨rfl, by decide +kernel⟩

theorem meets_MainLoopKeepsItsHandsOff :
    contextOf .reset = .mainLoop ∧
    after (exec .reset { stdState with pwm := { running := true, top := 9, level := 3 } })
      (fun t => t.pwm != { running := true, top := 9, level := 3 }) = true ∧
    after (mainTurn { stdState with main := .pwmApply 1 50 }) (fun t => t.pwm != stdState.pwm) = true :=
  ⟨rfl, by decide +kernel, by decide +kernel⟩

/-- The bytes beside the one written, and a sub-step that cancels nothing. -/
theorem meets_OnlyStoredFieldsChangeTheirBytes :
    (∃ t, exec (.wrDoClear 6) stdState = .next t) ∧
    (∀ a, a = 1 ∨ a = 3 ∨ a = 36 → ∀ k ∈ fieldsStored (.wrDoClear 6), a < fieldOffset k ∨ fieldOffset k + fieldWidth k ≤ a) ∧
    (∃ t, mainTurn { stdState with main := .startTrigger } = .next t) ∧
    (∀ m, ({ stdState with main := .startTrigger } : State).main ≠ .cancelSlots m) := by
  refine ⟨⟨_, rfl⟩, ?_, ⟨_, rfl⟩, nofun⟩
  rintro a (rfl | rfl | rfl) <;> decide

theorem meets_NoAcquisitionEventWhileInactive :
    pipelineSound stdState = true ∧ stdState.coord = .inactive ∧ stdState.diIrqEnabled = false ∧
    ∃ t, step (stdState.withFrame (encode .update)) = .next t :=
  ⟨by decide +kernel, rfl, rfl, _, rfl⟩

end Sys2Proof.Tests
end

/-! # The byte view of the register map (20_memory.md R52, R55; 00_scope.md R10)

The block is the fields' bytes in index order, so a field starts at the total width of the fields before it, and a read
inside a field is a read of that field's own bytes. -/

namespace Sys2Proof.Machine

/-! ## Little-endian numbers (R55) -/

/-- Byte `i` is the number's digit `i` to base 256. -/
theorem byteOf_toNat {w : Nat} (x : BitVec w) (i : Nat) : (byteOf x i).toNat = x.toNat / 2 ^ (8 * i) % 256 := by
  simp [byteOf, Nat.shiftRight_eq_div_pow]

@[simp] theorem leNumber_singleton (b : Byte) : leNumber [b] = b.toNat := rfl

@[simp] theorem leNumber_bytes2 (x : Cell) : leNumber (bytes2 x) = x.toNat := by
  have hx : x.toNat < 65536 := x.isLt
  simp only [bytes2, leNumber, byteOf_toNat]
  omega

@[simp] theorem leNumber_bytes4 (x : Word) : leNumber (bytes4 x) = x.toNat := by
  have hx : x.toNat < 4294967296 := x.isLt
  simp only [bytes4, leNumber, byteOf_toNat]
  omega

/-! ## Where a field stands in the block (R51, R52) -/

theorem fieldValue_bytes_length (s : State) (k : Field) : (fieldValue s k).bytes.length = fieldWidth k := by
  cases k <;> rfl

/-- The device has every field that is not a PWM field, and the PWM fields in a variant with PWM (R37, R38, R99). -/
theorem mem_fieldsOf_iff (c : Config.Params) (k : Field) :
    k ∈ fieldsOf c ↔ (fieldIsPwm k = true → c.hasPwm = true) := by
  cases h : c.hasPwm <;> cases k <;> simp [fieldsOf, fieldIsPwm, h]

theorem fieldsOf_getElem?_fieldIndex {c : Config.Params} {k : Field} (hk : k ∈ fieldsOf c) :
    (fieldsOf c)[fieldIndex k]? = some k := by
  rw [mem_fieldsOf_iff] at hk
  cases k
  case pwmCfg => simp [fieldsOf, fieldIndex, hk rfl]
  case pwmStop => simp [fieldsOf, fieldIndex, hk rfl]
  all_goals rfl

/-- Packed in index order: a field starts where the widths of the fields before it end. -/
theorem sum_fieldWidth_before {c : Config.Params} {k : Field} (hk : k ∈ fieldsOf c) :
    (((fieldsOf c).take (fieldIndex k)).map fieldWidth).sum = fieldOffset k := by
  rw [mem_fieldsOf_iff] at hk
  cases k
  case pwmStop => simp [fieldsOf, fieldIndex, fieldWidth, fieldOffset, hk rfl]
  all_goals rfl

/-- The fields around a field, those before it as wide together as its offset. -/
theorem fieldsOf_split {c : Config.Params} {k : Field} (hk : k ∈ fieldsOf c) :
    ∃ before after, fieldsOf c = before ++ k :: after ∧ (before.map fieldWidth).sum = fieldOffset k := by
  obtain ⟨hlt, hget⟩ := List.getElem?_eq_some_iff.1 (fieldsOf_getElem?_fieldIndex hk)
  have hdrop : (fieldsOf c).drop (fieldIndex k) = k :: (fieldsOf c).drop (fieldIndex k + 1) := by
    rw [List.drop_eq_getElem_cons hlt, hget]
  exact ⟨_, _, by rw [← hdrop, List.take_append_drop], sum_fieldWidth_before hk⟩

/-- The block around a field: as many bytes as the field's offset says, then the field's own. -/
theorem byteView_split {s : State} {k : Field} (hk : k ∈ fieldsOf s.cfg) :
    ∃ before after, byteView s = before ++ (fieldValue s k).bytes ++ after ∧ before.length = fieldOffset k := by
  obtain ⟨before, after, hfields, hsum⟩ := fieldsOf_split hk
  refine ⟨before.flatMap fun j => (fieldValue s j).bytes, after.flatMap fun j => (fieldValue s j).bytes, ?_, ?_⟩
  · simp [byteView, hfields]
  · simpa only [List.length_flatMap, fieldValue_bytes_length] using hsum

/-! ## Reads through `MemRead` (R10) -/

/-- A read that stays inside one part of the block reads that part's bytes. -/
theorem memRead_of_split {s : State} {before mid after : List Byte} {i n : Nat}
    (hs : byteView s = before ++ mid ++ after) (hin : i + n ≤ mid.length) :
    memRead s (before.length + i) n = some (leNumber ((mid.drop i).take n)) := by
  have hlen : before.length + i + n ≤ (byteView s).length := by simp only [hs, List.length_append]; omega
  have hdrop : (byteView s).drop (before.length + i) = mid.drop i ++ after := by
    rw [hs, List.append_assoc, List.drop_append, List.drop_append_of_le_length (by omega)]
    simp
  rw [memRead, if_pos hlen, hdrop, List.take_append_of_le_length (by simp only [List.length_drop]; omega)]

/-- A read of `n` bytes from byte `i` of a field the device has. -/
theorem memRead_field {s : State} {k : Field} (hk : k ∈ fieldsOf s.cfg) {i n : Nat} (hin : i + n ≤ fieldWidth k) :
    memRead s (fieldOffset k + i) n = some (leNumber (((fieldValue s k).bytes.drop i).take n)) := by
  obtain ⟨before, after, hs, hlen⟩ := byteView_split hk
  rw [← hlen]
  exact memRead_of_split hs (by rwa [fieldValue_bytes_length])

/-- A field of one byte. -/
theorem memRead_byteField {s : State} {k : Field} {v : Byte} (hk : k ∈ fieldsOf s.cfg) (hv : fieldValue s k = .byte v) :
    memRead s (fieldOffset k) 1 = some v.toNat := by
  have hwidth : fieldWidth k = 1 := by rw [← fieldValue_bytes_length s k, hv]; rfl
  have hread := memRead_field hk (i := 0) (n := 1) (by omega)
  rwa [hv] at hread

/-- A 16-bit element, at byte `i` of its field. -/
theorem memRead_element {s : State} {k : Field} {x : Cell} (hk : k ∈ fieldsOf s.cfg) (i : Nat)
    (hin : i + 2 ≤ fieldWidth k) (hx : ((fieldValue s k).bytes.drop i).take 2 = bytes2 x) :
    memRead s (fieldOffset k + i) 2 = some x.toNat := by
  rw [memRead_field hk hin, hx, leNumber_bytes2]

/-- A 32-bit element, at byte `i` of its field. -/
theorem memRead_word {s : State} {k : Field} {x : Word} (hk : k ∈ fieldsOf s.cfg) (i : Nat)
    (hin : i + 4 ≤ fieldWidth k) (hx : ((fieldValue s k).bytes.drop i).take 4 = bytes4 x) :
    memRead s (fieldOffset k + i) 4 = some x.toNat := by
  rw [memRead_field hk hin, hx, leNumber_bytes4]

/-- A read that reaches past the block reads nothing (notes/assumptions/16.md). -/
theorem memRead_eq_none_iff (s : State) (addr n : Nat) : memRead s addr n = none ↔ (byteView s).length < addr + n := by
  simp [memRead]

/-! ## The obligation, field by field -/

theorem memRead_ptStart (s : State) :
    memRead s 5 4 = some s.regs.ptStart.mask.toNat ∧
    memRead s 9 4 = some s.regs.ptStart.widthUs.toNat ∧
    memRead s 13 4 = some s.regs.ptStart.periodUs.toNat ∧
    memRead s 17 4 = some s.regs.ptStart.count.toNat := by
  have hk : .ptStart ∈ fieldsOf s.cfg := (mem_fieldsOf_iff ..).2 nofun
  exact ⟨memRead_word hk 0 (by decide) rfl, memRead_word hk 4 (by decide) rfl, memRead_word hk 8 (by decide) rfl,
    memRead_word hk 12 (by decide) rfl⟩

theorem memRead_analog (s : State) :
    memRead s 22 2 = some s.regs.analog.ch0.toNat ∧
    memRead s 24 2 = some s.regs.analog.ch1.toNat ∧
    memRead s 26 2 = some s.regs.analog.ch2.toNat := by
  have hk : .analog ∈ fieldsOf s.cfg := (mem_fieldsOf_iff ..).2 nofun
  exact ⟨memRead_element hk 0 (by decide) rfl, memRead_element hk 2 (by decide) rfl, memRead_element hk 4 (by decide) rfl⟩

theorem memRead_pwm {s : State} (hp : s.cfg.hasPwm = true) :
    memRead s 28 4 = some s.regs.pwmCfg.frequencyHz.toNat ∧
    memRead s 32 4 = some s.regs.pwmCfg.dutyPercent.toNat ∧
    memRead s 36 1 = some s.regs.pwmStop.toNat := by
  have hcfg : .pwmCfg ∈ fieldsOf s.cfg := (mem_fieldsOf_iff ..).2 fun _ => hp
  have hstop : .pwmStop ∈ fieldsOf s.cfg := (mem_fieldsOf_iff ..).2 fun _ => hp
  exact ⟨memRead_word hcfg 0 (by decide) rfl, memRead_word hcfg 4 (by decide) rfl, memRead_byteField hstop rfl⟩

/-- Settles O5: each field by the read of a byte, element or word at its place in the packed block. -/
theorem byteViewIsPackedLittleEndian : Obligations.ByteViewIsPackedLittleEndian := by
  unfold Obligations.ByteViewIsPackedLittleEndian
  intro s
  have hbyte {k : Field} {v : Byte} (hk : fieldIsPwm k = false) (hv : fieldValue s k = .byte v) :
      memRead s (fieldOffset k) 1 = some v.toNat :=
    memRead_byteField ((mem_fieldsOf_iff ..).2 (by simp [hk])) hv
  obtain ⟨hmask, hwidth, hperiod, hcount⟩ := memRead_ptStart s
  obtain ⟨hch0, hch1, hch2⟩ := memRead_analog s
  refine ⟨byteView_length s, hbyte (k := .diState) rfl rfl, hbyte (k := .doSet) rfl rfl, hbyte (k := .doClear) rfl rfl,
    hbyte (k := .doToggle) rfl rfl, hbyte (k := .doState) rfl rfl, hmask, hwidth, hperiod, hcount,
    hbyte (k := .ptStop) rfl rfl, hch0, hch1, hch2, memRead_pwm, fun hp => ?_⟩
  rw [memRead_eq_none_iff, byteView_length, hp]
  decide

end Sys2Proof.Machine

/-! # One fire and one end of a pulse (40_pulse_train.md R115, R116)

What a fire computes is put in terms of the signed count; each callback, once due, is its effect; and the two
notifications of a completing train are one update of the state. -/

namespace Sys2Proof.Machine

/-! ## What a fire computes (R13, R115) -/

theorem countPositive_iff (r : Word) : countPositive r = true ↔ 0 < r.toInt := by
  simp [countPositive, BitVec.slt]

theorem countAfterFire_eq (r : Word) : countAfterFire r = if 0 < r.toInt then r - 1 else r := by
  simp only [countAfterFire, countPositive_iff]

/-- The sentinel is computed exactly when the fire brings a positive count to zero. -/
theorem delayAfterFire_eq (p r : Word) :
    delayAfterFire p r = if 0 < r.toInt ∧ countAfterFire r = 0 then 0 else 0 - durationOf p := by
  by_cases h : 0 < r.toInt
  · simp [delayAfterFire, countAfterFire_eq, countPositive_iff, h]
  · have hc : countPositive r = false := Bool.eq_false_iff.2 (mt (countPositive_iff r).1 h)
    simp [delayAfterFire, hc, h]

/-- The timer repeats one period after its scheduled time, unless the computed delay is zero. -/
theorem nextTarget_delayAfterFire (now target : Time) (p r : Word) :
    nextTarget now target (delayAfterFire p r) =
      if delayAfterFire p r ≠ 0 then some (target + durationOf p) else none := by
  rw [delayAfterFire_eq]
  split
  · rfl
  · have hzero : 0 - durationOf p = 0 ↔ p = 0 := by
      rw [← durationOf_eq_zero]
      simp
    simp only [nextTarget_neg_duration, ne_eq, ite_not, hzero]

/-! ## The callbacks, due and with the interrupt context free -/

section
variable {s : State} {m : Byte} {target : Time} {rest : List Time}

theorem exec_ptFire_of_due (hp : (s.slot m).periodic = some target) (hdue : target ≤ s.now)
    (hirq : s.drain.cb = .noCb) :
    exec (.ptFire m) s =
      .next (State.notify
        { s with
          slots := s.poolWith m ((s.slot m).fired s.now target)
          doPins := s.doPins ||| (s.slot m).outputMask
          regs := { s.regs with doSet := (s.slot m).outputMask } } .doSet) := by
  have hen : fireEnabled m s = true := by
    simp only [fireEnabled, Bool.and_eq_true, due_iff, irqFree_iff]
    exact ⟨⟨target, hp, hdue⟩, hirq⟩
  have hfire : exec (.ptFire m) s = .next (fireSlot m s) := guarded_of_true hen _ _
  rw [hfire, fireSlot, hp]

theorem exec_ptEnd_of_due (he : (s.slot m).ends = target :: rest) (hdue : target ≤ s.now)
    (hirq : s.drain.cb = .noCb) :
    exec (.ptEnd m) s =
      .next (if stopSentinel (s.slot m) then completeTrain m (endPulse m rest s) else endPulse m rest s) := by
  have hen : endEnabled m s = true := by
    simp only [endEnabled, Bool.and_eq_true, due_iff, irqFree_iff]
    exact ⟨⟨target, by rw [he]; rfl, hdue⟩, hirq⟩
  have hend : exec (.ptEnd m) s = .next (endSlot m s) := guarded_of_true hen _ _
  rw [hend, endSlot, he]

/-- A pulse's end leaves all of its slot but the end alarms. -/
theorem slot_endPulse : (endPulse m rest s).slot m = { s.slot m with ends := rest } := by
  rw [State.slot_of_poolWith (s := s) (t := endPulse m rest s) rfl, if_pos rfl]

/-- A pulse's end and the train's completion, at one time: the slot is replaced once, and two events follow. -/
theorem completeTrain_endPulse :
    completeTrain m (endPulse m rest s) =
      { s with
        slots := s.poolWith m (s.slot m).cancelled
        doPins := s.doPins &&& ~~~(s.slot m).outputMask
        regs := { s.regs with doClear := (s.slot m).outputMask, ptStop := (s.slot m).outputMask }
        out := s.out ++ [.event .doClear s.now (.byte (s.slot m).outputMask),
                         .event .ptStop s.now (.byte (s.slot m).outputMask)] } := by
  have hpool : (endPulse m rest s).poolWith m (s.slot m).cancelled = s.poolWith m (s.slot m).cancelled :=
    State.poolWith_poolWith rfl _
  have hcancelled : ((endPulse m rest s).slot m).cancelled = (s.slot m).cancelled := by rw [slot_endPulse]; rfl
  rw [completeTrain, hcancelled, hpool, slot_endPulse]
  simp [endPulse, State.notify, State.reply, fieldValue]

end

/-! ## The obligations -/

/-- Settles O19: the due callback is its effect, and the slot it leaves holds the count, delay and target computed. -/
theorem ptFireStartsAPulse : Obligations.PtFireStartsAPulse := by
  unfold Obligations.PtFireStartsAPulse
  intro s m target remaining delay hp hdue hirq hremaining hdelay
  obtain rfl : remaining = countAfterFire _ := hremaining.trans (countAfterFire_eq _).symm
  obtain rfl : delay = delayAfterFire _ _ := hdelay.trans (delayAfterFire_eq _ _).symm
  rw [exec_ptFire_of_due hp hdue hirq, Slot.fired, nextTarget_delayAfterFire]
  rfl

/-- Settles O20: the due callback ends the pulse, and completes the train exactly on the stop sentinel. -/
theorem ptEndEndsAPulse : Obligations.PtEndEndsAPulse := by
  unfold Obligations.PtEndEndsAPulse
  intro s m target rest he hdue hirq
  rw [exec_ptEnd_of_due he hdue hirq]
  constructor
  · intro hdelay
    rw [if_neg (by simpa [stopSentinel] using hdelay)]
    rfl
  · intro hsentinel
    rw [if_pos (by simpa [stopSentinel] using hsentinel), completeTrain_endPulse]
    rfl

end Sys2Proof.Machine

/-! # One operation of the sampling pipeline each (41_sampling.md R144 to R162)

The guards of the transfers and of the drain callback as propositions; then each operation is its effect or is held. -/

namespace Sys2Proof.Machine

/-! ## Guards and effects -/

theorem dataRequest_iff (s : State) : dataRequest s = true ↔ s.adc.fifo ≠ [] := by
  simp [dataRequest]

theorem transferAEnabled_iff (s : State) :
    transferAEnabled s = true ↔ s.chA.busy = true ∧ s.chA.idx < 3 ∧ s.adc.fifo ≠ [] := by
  simp only [transferAEnabled, Bool.and_eq_true, decide_eq_true_eq, dataRequest_iff, and_assoc]

theorem drainFireEnabled_iff (s : State) :
    drainFireEnabled s = true ↔ (∃ t, s.drain.target = some t ∧ t ≤ s.now) ∧ s.drain.cb = .noCb := by
  simp only [drainFireEnabled, Bool.and_eq_true, due_iff, irqFree_iff]

theorem queueHasRoom_iff (s : State) : queueHasRoom s = true ↔ s.queue.length < 2 := by
  simp [queueHasRoom, Config.queueCap]

/-- The three cells after one of them is written. -/
theorem setCell_eq (b : Vector Cell 3) (w : Cell) :
    b.setIfInBounds 0 w = #v[w, b[1], b[2]] ∧ b.setIfInBounds 1 w = #v[b[0], w, b[2]] ∧
    b.setIfInBounds 2 w = #v[b[0], b[1], w] := by
  refine ⟨?_, ?_, ?_⟩ <;>
  · ext1 i hi
    interval_cases i <;> simp

/-- What Channel A's transfer of the word `w` leaves, with the third cell's chain to Channel B in two flags (R144). -/
theorem transferA_eq {s : State} {w : Cell} {rest : List Cell} (hf : s.adc.fifo = w :: rest) :
    transferA s =
      { s with
        adc := { s.adc with fifo := rest }
        buf := s.buf.setIfInBounds s.chA.idx.val w
        chA := { s.chA with idx := s.chA.idx + 1, busy := s.chA.busy && !decide (s.chA.idx + 1 = 3) }
        chB := { s.chB with busy := s.chB.busy || decide (s.chA.idx + 1 = 3) } } := by
  unfold transferA
  rw [hf]
  by_cases h3 : s.chA.idx + 1 = 3 <;> simp [h3]

/-- Channel A goes on unless it wrote the third cell. -/
theorem transferA_chA_busy {s : State} {w : Cell} {rest : List Cell} (hf : s.adc.fifo = w :: rest) :
    (transferA s).chA.busy = true ↔ s.chA.busy = true ∧ s.chA.idx + 1 ≠ 3 := by
  simp [transferA_eq hf]

/-- Channel B is triggered by the third cell. -/
theorem transferA_chB_busy {s : State} {w : Cell} {rest : List Cell} (hf : s.adc.fifo = w :: rest) :
    (transferA s).chB.busy = true ↔ s.chB.busy = true ∨ s.chA.idx + 1 = 3 := by
  simp [transferA_eq hf]

theorem exec_dmaAXfer_of_ready {s : State} {w : Cell} {rest : List Cell} (hb : s.chA.busy = true)
    (hi : s.chA.idx < 3) (hf : s.adc.fifo = w :: rest) : exec .dmaAXfer s = .next (transferA s) :=
  guarded_of_true ((transferAEnabled_iff s).2 ⟨hb, hi, by simp [hf]⟩) _ _

theorem popSample_of_nil {s : State} (hq : s.queue = []) : popSample s = s := by
  rw [popSample, hq]

theorem popSample_of_cons {s : State} {item : SampleItem} {rest : List SampleItem} (hq : s.queue = item :: rest) :
    popSample s =
      { s with
        queue := rest
        regs := { s.regs with analog := analogOf item }
        out := s.out ++ [.event .analog item.timestamp (.analog (analogOf item))] } := by
  rw [popSample, hq]
  rfl

/-! ## The obligations -/

/-- Settles O28: the converter runs or is held, and its queue has room or is full. -/
theorem conversionQueuesTheWord : Obligations.ConversionQueuesTheWord := by
  unfold Obligations.ConversionQueuesTheWord
  intro s w
  have hrun (h : s.adc.running = true) : exec (.adcConvert w) s = .next (convert w s) := guarded_of_true h _ _
  refine ⟨fun hr hroom => ?_, fun hr hfull => ?_, fun hr => guarded_of_false hr _ _⟩
  · simp only [hrun hr, convert, if_pos hroom, hr]
  · simp only [hrun hr, convert, if_neg (Nat.not_lt.2 hfull)]

/-- Settles O29: one cell of the three each. -/
theorem channelAMovesOneWord : Obligations.ChannelAMovesOneWord := by
  unfold Obligations.ChannelAMovesOneWord
  intro s w rest hb hf
  have hmove (hi : s.chA.idx < 3) : exec .dmaAXfer s = .next (transferA s) := exec_dmaAXfer_of_ready hb hi hf
  obtain ⟨h0, h1, h2⟩ := setCell_eq s.buf w
  refine ⟨fun hi => ?_, fun hi => ?_, fun hi => ?_⟩
  · simp [hmove (hi ▸ by decide), transferA_eq hf, hi, hb, h0]
  · simp [hmove (hi ▸ by decide), transferA_eq hf, hi, hb, h1]
  · simp [hmove (hi ▸ by decide), transferA_eq hf, hi, hb, h2]

/-- Settles O30. -/
theorem channelBRearmsChannelA : Obligations.ChannelBRearmsChannelA := by
  unfold Obligations.ChannelBRearmsChannelA
  exact fun s => ⟨fun h => guarded_of_true h _ _, fun h => guarded_of_false h _ _⟩

/-- Settles O31: each channel's abort is its own guard and effect. -/
theorem abortLandsOnItsChannel : Obligations.AbortLandsOnItsChannel := by
  unfold Obligations.AbortLandsOnItsChannel
  intro s
  have hland (x : Channel) (h : abortRequested x s = true) : exec (.dmaAbortLand x) s = .next (landAbort x s) :=
    guarded_of_true h _ _
  have hheld (x : Channel) (h : abortRequested x s = false) : exec (.dmaAbortLand x) s = .next s :=
    guarded_of_false h _ _
  exact ⟨hland .a, hheld .a, hland .b, hheld .b⟩

/-- Settles O33: the callback is entered only when due, and then the flag decides. -/
theorem drainFireEntersOrSelfCancels : Obligations.DrainFireEntersOrSelfCancels := by
  unfold Obligations.DrainFireEntersOrSelfCancels
  intro s hcb
  have hfire {target : Time} (ht : s.drain.target = some target) (hdue : target ≤ s.now) :
      exec .drainFire s = .next (drainEnter s) :=
    guarded_of_true ((drainFireEnabled_iff s).2 ⟨⟨target, ht, hdue⟩, hcb⟩) _ _
  have hheld (h : ¬ ∃ t, s.drain.target = some t ∧ t ≤ s.now) : exec .drainFire s = .next s :=
    guarded_of_false (Bool.eq_false_iff.2 fun hen => h ((drainFireEnabled_iff s).1 hen).1) _ _
  refine ⟨fun target ht hdue he => ?_, fun target ht hdue he => ?_, fun target ht hearly => hheld ?_,
    fun hnone => hheld ?_⟩
  · simp only [hfire ht hdue, drainEnter, if_pos he, ht]
  · simp [hfire ht hdue, drainEnter, he, hcb]
  · rintro ⟨t, h, hle⟩
    obtain rfl : t = target := Option.some.inj (h.symm.trans ht)
    exact absurd hle (BitVec.not_le.2 hearly)
  · simp [hnone]

/-- Settles O34: one read for each state of phase `Snap`. -/
theorem drainReadsTheCellsInOrder : Obligations.DrainReadsTheCellsInOrder := by
  unfold Obligations.DrainReadsTheCellsInOrder
  intro s
  have hread {cb : DrainCb} (h : s.drain.cb = cb) (hsnap : cb.isSnap = true) :
      exec .drainRead s = .next { s with drain := { s.drain with cb := readCell s } } :=
    guarded_of_true (h ▸ hsnap) _ _
  refine ⟨fun h => ?_, fun v0 h => ?_, fun v0 v1 h => ?_, fun h => guarded_of_false h _ _⟩
  all_goals
    rw [hread h rfl, readCell, h]
    rfl

/-- Settles O35: room in the queue is all that phase `Push` with its timer armed waits for. -/
theorem drainPushQueuesOrBlocks : Obligations.DrainPushQueuesOrBlocks := by
  unfold Obligations.DrainPushQueuesOrBlocks
  intro s item target hd
  have hroom : drainPushEnabled s = queueHasRoom s := by simp [drainPushEnabled, hd, DrainCb.isPush]
  constructor
  · intro hlt
    have hpush : exec .drainPush s = .next (drainReturn s) :=
      guarded_of_true (hroom.trans ((queueHasRoom_iff s).2 hlt)) _ _
    rw [hpush, drainReturn, hd]
  · intro hfull
    exact guarded_of_false (hroom.trans (Bool.eq_false_iff.2 (mt (queueHasRoom_iff s).1 (by omega)))) _ _

/-- Settles O36: the pop, then the Coordinator's evaluation. -/
theorem updatePopsOneSample : Obligations.UpdatePopsOneSample := by
  unfold Obligations.UpdatePopsOneSample
  intro s hm hcb
  have hup : exec .update s = .next ((popSample s).goto .coordEval) :=
    guarded_of_true (f := fun t => (popSample t).goto .coordEval) ((mainFree_iff s).2 ⟨hm, hcb⟩) s
  refine ⟨fun item rest hq => ?_, fun hq => ?_⟩
  · rw [hup, popSample_of_cons hq]
    rfl
  · rw [hup, popSample_of_nil hq]
    rfl

end Sys2Proof.Machine

/-! # What a step can do to the sampling pipeline (41_sampling.md R144 to R160, 42_coordinator.md R183 to R185)

Of all the turns, only five operations and the main loop's sub-steps inside a transition of the Coordinator move the
channels, the converter or the AnalogBuffer. `SamplingStep` says once what each does; the proofs about the pipeline go
through it. -/

namespace Sys2Proof.Machine

/-! ## Main-loop positions -/

/-- The main loop is inside no transition of the Coordinator (R184, R185): the positions at which the Coordinator's
state says whether the pipeline is on or off. -/
def MainPos.outsideTransition : MainPos → Bool
  | .idle | .ack _ | .ptStartCancel _ _ _ _ | .ptStartArm _ _ _ _ | .ptStopCancel _ | .pwmApply _ _ | .pwmHalt
  | .coordEval => true
  | .enableIrq | .startSelect | .startTrigger | .startConvert | .startDrain | .enableDone | .disableIrq | .stopDrain
  | .abortRequest | .abortTest | .stopConvert | .stopFlush | .cancelSlots _ | .disableDone => false

/-! ## Steps that leave the pipeline alone -/

/-- The step leaves the channels, the converter, the AnalogBuffer and the Coordinator as they are, and takes the main
loop neither into a transition nor out of one. -/
structure SamplingKept (s t : State) : Prop where
  cfg : t.cfg = s.cfg
  coord : t.coord = s.coord
  adc : t.adc = s.adc
  buf : t.buf = s.buf
  chA : t.chA = s.chA
  chB : t.chB = s.chB
  main : t.main = s.main ∨ s.main.outsideTransition = true ∧ t.main.outsideTransition = true

theorem SamplingKept.advance (s : State) : SamplingKept s s.advance := ⟨rfl, rfl, rfl, rfl, rfl, rfl, .inl rfl⟩

theorem SamplingKept.of_advance {s t : State} (h : SamplingKept s.advance t) : SamplingKept s t :=
  ⟨h.cfg, h.coord, h.adc, h.buf, h.chA, h.chB, h.main⟩

/-- An operation the main loop begins, which writes no more than its own fields and its next sub-step. -/
theorem SamplingKept.of_mainFree {s t : State} (hfree : mainFree s = true)
    (ht : t.main = s.main ∨ t.main.outsideTransition = true)
    (hkept : t = { t with cfg := s.cfg, coord := s.coord, adc := s.adc, buf := s.buf, chA := s.chA, chB := s.chB }) :
    SamplingKept s t := by
  obtain ⟨hidle, -⟩ := (mainFree_iff s).1 hfree
  rw [hkept]
  exact ⟨rfl, rfl, rfl, rfl, rfl, rfl, ht.imp_right fun ht => ⟨hidle ▸ rfl, ht⟩⟩

/-! ## The main loop inside a transition -/

/-- The Coordinator's evaluation and each numbered sub-step of its transitions, with what it leaves. -/
inductive TransitionSubStep (s : State) : State → Prop
  | coordEval (pos : s.main = .coordEval) : TransitionSubStep s (s.goto (coordNext s))
  | enableIrq (pos : s.main = .enableIrq) :
      TransitionSubStep s (State.goto { s with diIrqEnabled := true } .startSelect)
  | startSelect (pos : s.main = .startSelect) : TransitionSubStep s ((startSelect s).goto .startTrigger)
  | startTrigger (pos : s.main = .startTrigger) : TransitionSubStep s ((startTrigger s).goto .startConvert)
  | startConvert (pos : s.main = .startConvert) : TransitionSubStep s ((startConvert s).goto .startDrain)
  | startDrain (pos : s.main = .startDrain) : TransitionSubStep s ((startDrain s).goto .enableDone)
  | enableDone (pos : s.main = .enableDone) : TransitionSubStep s (State.goto { s with coord := .active } .idle)
  | disableIrq (pos : s.main = .disableIrq) :
      TransitionSubStep s (State.goto { s with diIrqEnabled := false } .stopDrain)
  | stopDrain (pos : s.main = .stopDrain) : TransitionSubStep s ((cancelDrain s).goto .abortRequest)
  | abortRequest (pos : s.main = .abortRequest) : TransitionSubStep s ((requestAborts s).goto .abortTest)
  | abortsLanded (pos : s.main = .abortTest) (landed : Machine.abortsLanded s = true) :
      TransitionSubStep s (s.goto .stopConvert)
  | abortAgain (pos : s.main = .abortTest) (waiting : Machine.abortsLanded s = false) :
      TransitionSubStep s (s.goto .abortRequest)
  | stopConvert (pos : s.main = .stopConvert) : TransitionSubStep s ((stopConvert s).goto .stopFlush)
  | stopFlush (pos : s.main = .stopFlush) : TransitionSubStep s ((stopFlush s).goto (.cancelSlots 0))
  | cancelSlot (m : Byte) (pos : s.main = .cancelSlots m) (more : m ≠ 255) :
      TransitionSubStep s ((cancelSlot m s).goto (.cancelSlots (m + 1)))
  | cancelLast (pos : s.main = .cancelSlots 255) : TransitionSubStep s ((Machine.cancelSlot 255 s).goto .disableDone)
  | disableDone (pos : s.main = .disableDone) : TransitionSubStep s (State.goto { s with coord := .inactive } .idle)

theorem subStep_transition {s t : State} (hin : s.main = .coordEval ∨ s.main.outsideTransition = false)
    (h : subStep s = .next t) : TransitionSubStep s t := by
  cases hmain : s.main <;> simp [hmain, MainPos.outsideTransition] at hin <;>
    simp only [subStep, hmain, Host.Outcome.next.injEq] at h
  case startSelect =>
    split at h <;> cases h
    exact .startSelect hmain
  all_goals subst h
  case abortTest =>
    cases hl : abortsLanded s with
    | true => exact .abortsLanded hmain hl
    | false => exact .abortAgain hmain hl
  case cancelSlots m =>
    by_cases hm : m = 255
    · subst hm
      exact .cancelLast hmain
    · rw [if_neg hm]
      exact .cancelSlot m hmain hm
  case coordEval => exact .coordEval hmain
  case enableIrq => exact .enableIrq hmain
  case startTrigger => exact .startTrigger hmain
  case startConvert => exact .startConvert hmain
  case startDrain => exact .startDrain hmain
  case enableDone => exact .enableDone hmain
  case disableIrq => exact .disableIrq hmain
  case stopDrain => exact .stopDrain hmain
  case abortRequest => exact .abortRequest hmain
  case stopConvert => exact .stopConvert hmain
  case stopFlush => exact .stopFlush hmain
  case disableDone => exact .disableDone hmain

/-! ## The steps -/

/-- The next step is no conversion, no transfer of Channel A and no startPipeline: the watchers of R291 and R298 note
nothing of it but a DRAIN_FIRE. -/
def Unwatched (s : State) : Prop := takesConvert s = false ∧ takesTransferA s = false ∧ beginsPipeline s = false

/-- Everything one step can do to the sampling pipeline. -/
inductive SamplingStep (s : State) : State → Prop
  /-- Nothing, though the drain callback may go on: entered by a DRAIN_FIRE, or in flight already. -/
  | kept {t : State} (unwatched : Unwatched s) (kept : SamplingKept s t)
      (drain : t.drain = s.drain ∨ takesDrainFire s = true ∨ s.drain.cb ≠ .noCb) : SamplingStep s t
  | reset (turn : fetch s.sched = .operation .reset) (idle : s.main = .idle) : SamplingStep s (resetEngine s.advance)
  | convert (w : Cell) (turn : fetch s.sched = .operation (.adcConvert w)) (running : s.adc.running = true) :
      SamplingStep s (convert w s.advance)
  | transferA (turn : fetch s.sched = .operation .dmaAXfer) (enabled : transferAEnabled s = true) :
      SamplingStep s (transferA s.advance)
  | transferB (turn : fetch s.sched = .operation .dmaBXfer) (busy : s.chB.busy = true) :
      SamplingStep s (transferB s.advance)
  | landAbort (x : Channel) (turn : fetch s.sched = .operation (.dmaAbortLand x))
      (requested : abortRequested x s = true) : SamplingStep s (landAbort x s.advance)
  | transition {t : State} (turn : fetch s.sched = .mainLoop) (mayRun : mainMayRun s = true)
      (inside : s.main = .coordEval ∨ s.main.outsideTransition = false) (sub : subStep s.advance = .next t) :
      SamplingStep s t

section
variable {s t : State} {i : Instr}

theorem not_beginsPipeline_of_operation (hi : fetch s.sched = .operation i) : beginsPipeline s = false := by
  simp [beginsPipeline, hi]

theorem unwatched_of_operation (hi : fetch s.sched = .operation i) (hC : ∀ w, i ≠ .adcConvert w)
    (hA : i ≠ .dmaAXfer) : Unwatched s := by
  refine ⟨?_, by simp [takesTransferA, hi, hA], not_beginsPipeline_of_operation hi⟩
  rw [Bool.eq_false_iff, ne_eq, takesConvert_iff]
  rintro ⟨⟨w, hw⟩, -⟩
  exact hC w (by simpa [hi] using hw)

/-- A guarded operation is held, or has its effect. -/
theorem SamplingStep.of_guarded {g : Bool} {f : State → State} (h : guarded g f s.advance = .next t)
    (held : g = false → SamplingStep s s.advance) (act : g = true → SamplingStep s (f s.advance)) :
    SamplingStep s t := by
  rcases guarded_next h with ⟨hg, rfl⟩ | ⟨hg, rfl⟩
  · exact act hg
  · exact held hg

theorem SamplingStep.of_held (hu : Unwatched s) : SamplingStep s s.advance :=
  .kept hu (.advance s) (.inl rfl)

/-- An operation of the main loop other than RESET. -/
theorem SamplingStep.of_mainFree {f : State → State} (hu : Unwatched s)
    (h : guarded (mainFree s.advance) f s.advance = .next t)
    (hf : ∀ u, ((f u).main = u.main ∨ (f u).main.outsideTransition = true) ∧
      f u = { f u with
        cfg := u.cfg, coord := u.coord, adc := u.adc, buf := u.buf, chA := u.chA, chB := u.chB, drain := u.drain }) :
    SamplingStep s t := by
  refine .of_guarded h (fun _ => .of_held hu) fun hg => ?_
  obtain ⟨hmain, hkept⟩ := hf s.advance
  exact .kept hu (.of_mainFree (s := s) hg hmain (by rw [hkept]; rfl)) (.inl (by rw [hkept]; rfl))

/-- An operation outside the main loop that writes neither the pipeline nor the main loop's position. -/
theorem SamplingStep.of_outside {g : Bool} {f : State → State} (hu : Unwatched s)
    (h : guarded g f s.advance = .next t)
    (hf : f s.advance = { f s.advance with
      main := s.main, cfg := s.cfg, coord := s.coord, adc := s.adc, buf := s.buf, chA := s.chA, chB := s.chB })
    (hd : g = true → (f s.advance).drain = s.drain ∨ takesDrainFire s = true ∨ s.drain.cb ≠ .noCb) :
    SamplingStep s t := by
  refine .of_guarded h (fun _ => .of_held hu) fun hg => .kept hu ?_ (hd hg)
  rw [hf]
  exact ⟨rfl, rfl, rfl, rfl, rfl, rfl, .inl rfl⟩

/-- A write or a read of the host, or a hook, other than RESET. -/
theorem samplingStep_of_mainLoopOp (hctx : contextOf i = .mainLoop) (hi : fetch s.sched = .operation i)
    (hreset : i ≠ .reset) (h : exec i s.advance = .next t) : SamplingStep s t := by
  have hu : Unwatched s := unwatched_of_operation hi (by rintro w rfl; cases hctx) (by rintro rfl; cases hctx)
  cases i <;> try cases hctx
  case reset => exact absurd rfl hreset
  case rdPwmCfg | rdPwmStop => exact .of_mainFree hu (pwmOnly_next h).2 fun u => ⟨.inl rfl, rfl⟩
  case wrPwmCfg | wrPwmStop => exact .of_mainFree hu (pwmOnly_next h).2 fun u => ⟨.inr rfl, rfl⟩
  case wrDoSet | wrDoClear | wrDoToggle | wrDoState | wrPtStart | wrPtStop =>
    exact .of_mainFree hu h fun u => ⟨.inr rfl, rfl⟩
  case wrDiState | wrAnalog => exact .of_mainFree (f := fun u => u.raise _ _) hu h fun u => ⟨.inl rfl, rfl⟩
  case update =>
    refine .of_mainFree (f := fun u => (popSample u).goto .coordEval) hu h fun u => ⟨.inr rfl, ?_⟩
    unfold popSample; dsimp only; split <;> rfl
  case configure =>
    simp only [exec, execConfigure] at h
    split at h
    · cases h
    · exact .of_mainFree hu h fun u => ⟨.inl rfl, rfl⟩
  all_goals exact .of_mainFree (f := fun u => u.replyRead _) hu h fun u => ⟨.inl rfl, rfl⟩

/-- Every operation. -/
theorem samplingStep_of_operation (hi : fetch s.sched = .operation i) (h : exec i s.advance = .next t) :
    SamplingStep s t := by
  have hu (hC : ∀ w, i ≠ .adcConvert w) (hA : i ≠ .dmaAXfer) : Unwatched s := unwatched_of_operation hi hC hA
  cases i
  case reset =>
    exact .of_guarded h (fun _ => .of_held (hu nofun nofun)) fun hg => .reset hi ((mainFree_iff s).1 hg).1
  case adcConvert w =>
    refine .of_guarded h (fun hg => .of_held ⟨?_, by simp [takesTransferA, hi], not_beginsPipeline_of_operation hi⟩)
      (.convert w hi)
    have hr : s.adc.running = false := hg
    simp [takesConvert, hi, hr]
  case dmaAXfer =>
    refine .of_guarded h (fun hg => .of_held ⟨by simp [takesConvert, hi], ?_, not_beginsPipeline_of_operation hi⟩)
      (.transferA hi)
    have hr : transferAEnabled s = false := hg
    simp [takesTransferA, hr]
  case dmaBXfer => exact .of_guarded h (fun _ => .of_held (hu nofun nofun)) (.transferB hi)
  case dmaAbortLand x => exact .of_guarded h (fun _ => .of_held (hu nofun nofun)) (.landAbort x hi)
  case setEventsEnabled b =>
    cases h
    exact .kept (hu nofun nofun) ⟨rfl, rfl, rfl, rfl, rfl, rfl, .inl rfl⟩ (.inl rfl)
  case tickTime delta =>
    exact .of_outside (f := fun u => { u with now := u.now + delta }) (hu nofun nofun) h rfl fun _ => .inl rfl
  case diChange v =>
    exact .of_outside (f := fun u => { u with diPins := v }) (hu nofun nofun) h rfl fun _ => .inl rfl
  case diEdge => exact .of_outside (hu nofun nofun) h rfl fun _ => .inl rfl
  case ptFire m =>
    refine .of_outside (hu nofun nofun) h ?_ fun _ => .inl ?_ <;>
    · unfold fireSlot
      split <;> rfl
  case ptEnd m =>
    refine .of_outside (hu nofun nofun) h ?_ fun _ => .inl ?_ <;>
    · unfold endSlot
      split
      · split <;> rfl
      · rfl
  case drainFire =>
    refine .of_outside (hu nofun nofun) h ?_ fun hg => .inr (.inl ?_)
    · unfold drainEnter; split <;> rfl
    · have hen : drainFireEnabled s = true := hg
      simp [takesDrainFire, hi, hen]
  case drainRead =>
    refine .of_outside (hu nofun nofun) h rfl fun hg => .inr (.inr ?_)
    rintro hcb
    have hsnap : s.drain.cb.isSnap = true := hg
    simp [hcb, DrainCb.isSnap] at hsnap
  case drainPush =>
    refine .of_outside (hu nofun nofun) h ?_ fun hg => .inr (.inr ?_)
    · unfold drainReturn; split <;> rfl
    · rintro hcb
      have hpush : drainPushEnabled s = true := hg
      simp [drainPushEnabled, hcb, DrainCb.isPush] at hpush
  all_goals exact samplingStep_of_mainLoopOp rfl hi nofun h

/-- A sub-step outside the transitions, but for the Coordinator's evaluation. -/
theorem subStep_outsideTransition (hout : s.main.outsideTransition = true) (heval : s.main ≠ .coordEval)
    (h : subStep s = .next t) : SamplingKept s t ∧ t.drain = s.drain := by
  have hkept (hkept : t = { t with
        cfg := s.cfg, coord := s.coord, adc := s.adc, buf := s.buf, chA := s.chA, chB := s.chB, drain := s.drain })
      (ht : t.main.outsideTransition = true) : SamplingKept s t ∧ t.drain = s.drain := by
    rw [hkept]
    exact ⟨⟨rfl, rfl, rfl, rfl, rfl, rfl, .inr ⟨hout, ht⟩⟩, rfl⟩
  cases hmain : s.main <;> simp [hmain, MainPos.outsideTransition] at heval hout <;>
    simp only [subStep, hmain, Host.Outcome.next.injEq] at h <;> subst h
  case idle => exact hkept rfl (by rw [hmain]; rfl)
  case ptStartCancel | ptStopCancel => exact hkept (by unfold cancelSlot; split <;> rfl) rfl
  case pwmApply => exact hkept (by unfold pwmApply; split <;> rfl) rfl
  all_goals exact hkept rfl rfl

/-- A turn of the main loop. -/
theorem samplingStep_of_mainTurn (hi : fetch s.sched = .mainLoop) (h : mainTurn s.advance = .next t) :
    SamplingStep s t := by
  have hu (hne : s.main ≠ .startSelect ∨ mainMayRun s = false) : Unwatched s := by
    refine ⟨by simp [takesConvert, hi], by simp [takesTransferA, hi], ?_⟩
    rcases hne with hne | hne <;> simp [beginsPipeline, hne]
  rcases mainTurn_next h with ⟨hheld, rfl⟩ | ⟨hrun, hsub⟩
  · exact .of_held (hu (.inr hheld))
  by_cases hin : s.main = .coordEval ∨ s.main.outsideTransition = false
  · exact .transition hi hrun hin hsub
  · obtain ⟨heval, hout⟩ := not_or.1 hin
    have hne : s.main ≠ .startSelect := by rintro hm; simp [hm, MainPos.outsideTransition] at hout
    suffices SamplingKept s t ∧ t.drain = s.drain from .kept (hu (.inl hne)) this.1 (.inl this.2)
    obtain ⟨hkept, hdrain⟩ := subStep_outsideTransition (s := s.advance) (by simpa using hout) heval hsub
    exact ⟨hkept.of_advance, hdrain⟩

/-- Every step is one of these. -/
theorem step_samplingStep (h : step s = .next t) : SamplingStep s t := by
  unfold step at h
  split at h
  case h_1 hi => exact samplingStep_of_mainTurn hi h
  case h_2 i hi => exact samplingStep_of_operation hi h
  case h_3 => cases h

end
end Sys2Proof.Machine

/-! # What every step keeps of the channels (41_sampling.md R144, R147, R155, R156)

A weakening of `pipelineSound` that needs nothing but the channels, the converter and the Coordinator, and that every
step keeps: at most one channel is busy, and where the main loop's position says that the pipeline is off, it is. -/

namespace Sys2Proof.Machine

/-- The pipeline has not been started, or has been stopped: between transitions as the Coordinator's state says, inside
one up to startPipeline's second sub-step and from stopPipeline's third on (R155, R156). -/
def pipelineIsOff (s : State) : Bool :=
  match s.main with
  | .idle | .ack _ | .ptStartCancel _ _ _ _ | .ptStartArm _ _ _ _ | .ptStopCancel _ | .pwmApply _ _ | .pwmHalt
  | .coordEval => decide (s.coord = .inactive)
  | .enableIrq | .startSelect | .startTrigger | .stopFlush | .cancelSlots _ | .disableDone => true
  | .startConvert | .startDrain | .enableDone | .disableIrq | .stopDrain | .abortRequest | .abortTest
  | .stopConvert => false

/-- Neither channel is busy. -/
def ChannelsIdle (s : State) : Prop := s.chA.busy = false ∧ s.chB.busy = false

/-- The channels are in order: they are never busy at once, Channel A while busy has a cell to write, and where the
pipeline is off neither is busy and the converter is stopped with its queue empty. -/
structure ChannelsInOrder (s : State) : Prop where
  notBoth : s.chA.busy = true → s.chB.busy = false
  cellLeft : s.chA.busy = true → s.chA.idx < 3
  stopped : s.main = .stopConvert → ChannelsIdle s
  off : pipelineIsOff s = true → ChannelsIdle s ∧ s.adc.running = false ∧ s.adc.fifo = []

theorem pipelineIsOff_of_outside {s : State} (h : s.main.outsideTransition = true) :
    pipelineIsOff s = decide (s.coord = .inactive) := by
  unfold pipelineIsOff
  cases hm : s.main <;> simp_all [MainPos.outsideTransition]

/-- At startPipeline's first sub-step a sound state is stopped (R155). -/
theorem pipelineStopped_of_startSelect {s : State} (hm : s.main = .startSelect) (h : pipelineSound s = true) :
    pipelineStopped s = true := by
  obtain ⟨hcoord, -⟩ := (pipelineSound_iff s).1 h
  simp only [coordSound, hm, Bool.and_eq_true] at hcoord
  exact hcoord.1.1.2

section
variable {s t : State}

/-- Whatever leaves the channels, the converter, the Coordinator and the position with respect to transitions. -/
theorem SamplingKept.channelsInOrder (h : SamplingKept s t) (hs : ChannelsInOrder s) : ChannelsInOrder t := by
  have hoff : pipelineIsOff t = pipelineIsOff s := by
    rcases h.main with hm | ⟨hms, hmt⟩
    · simp only [pipelineIsOff, hm, h.coord]
    · rw [pipelineIsOff_of_outside hms, pipelineIsOff_of_outside hmt, h.coord]
  have hstop (ht : t.main = .stopConvert) : s.main = .stopConvert := by
    rcases h.main with hm | ⟨-, hmt⟩
    · exact hm ▸ ht
    · simp [ht, MainPos.outsideTransition] at hmt
  have hidle : ChannelsIdle t ↔ ChannelsIdle s := by simp only [ChannelsIdle, h.chA, h.chB]
  refine ⟨?_, ?_, fun ht => hidle.2 (hs.stopped (hstop ht)), fun ht => ?_⟩
  · simpa only [h.chA, h.chB] using hs.notBoth
  · simpa only [h.chA] using hs.cellLeft
  · simpa only [hidle, h.adc] using hs.off (hoff ▸ ht)

/-- What is off is in order, wherever the main loop is. -/
theorem ChannelsInOrder.of_idle (hidle : ChannelsIdle s) (hrun : s.adc.running = false) (hfifo : s.adc.fifo = []) :
    ChannelsInOrder s :=
  ⟨fun _ => hidle.2, fun h => by simp [hidle.1] at h, fun _ => hidle, fun _ => ⟨hidle, hrun, hfifo⟩⟩

/-- Where the pipeline is on and not yet being stopped, all there is to check is the busy bits and the cell. -/
theorem ChannelsInOrder.of_on (hon : pipelineIsOff s = false ∧ s.main ≠ .stopConvert)
    (hboth : s.chA.busy = true → s.chB.busy = false) (hcell : s.chA.busy = true → s.chA.idx < 3) :
    ChannelsInOrder s :=
  ⟨hboth, hcell, fun h => absurd h hon.2, fun h => by simp [hon.1] at h⟩

/-- A busy channel says that the pipeline is on. -/
theorem ChannelsInOrder.on_of_busy (hs : ChannelsInOrder s) (hbusy : s.chA.busy = true ∨ s.chB.busy = true) :
    pipelineIsOff s = false ∧ s.main ≠ .stopConvert := by
  have hnot : ¬ ChannelsIdle s := by
    rintro ⟨hA, hB⟩
    simp [hA, hB] at hbusy
  exact ⟨Bool.eq_false_iff.2 fun h => hnot (hs.off h).1, fun h => hnot (hs.stopped h)⟩

theorem ChannelsInOrder.advance (hs : ChannelsInOrder s) : ChannelsInOrder s.advance :=
  ⟨hs.notBoth, hs.cellLeft, hs.stopped, hs.off⟩

/-- The sub-steps of the Coordinator's transitions keep the channels in order. -/
theorem ChannelsInOrder.subStep (hs : ChannelsInOrder s) (hin : s.main = .coordEval ∨ s.main.outsideTransition = false)
    (h : subStep s = .next t) : ChannelsInOrder t := by
  obtain ⟨hboth, hcell, hstop, hoff⟩ := hs
  cases subStep_transition hin h
  case coordEval hmain =>
    by_cases hc : s.coord = .inactive
    · obtain ⟨hidle, hrun, hfifo⟩ := hoff (by simp [pipelineIsOff, hmain, hc])
      exact .of_idle hidle hrun hfifo
    · have hc : s.coord = .active := by cases h : s.coord <;> simp_all
      refine .of_on ?_ hboth hcell
      cases he : s.eventsEnabled <;> simp [coordNext, pipelineIsOff, hc, he]
  case enableIrq hmain | startSelect hmain | stopFlush hmain | disableDone hmain =>
    obtain ⟨hidle, hrun, hfifo⟩ := hoff (by rw [pipelineIsOff, hmain])
    exact .of_idle hidle hrun hfifo
  case cancelSlot hmain _ | cancelLast hmain =>
    obtain ⟨⟨hA, hB⟩, hrun, hfifo⟩ := hoff (by rw [pipelineIsOff, hmain])
    exact .of_idle ⟨by simpa using hA, by simpa using hB⟩ (by simpa using hrun) (by simpa using hfifo)
  case startTrigger hmain =>
    obtain ⟨⟨hA, -⟩, -⟩ := hoff (by rw [pipelineIsOff, hmain])
    exact .of_on ⟨rfl, nofun⟩ (fun hbusy => absurd (hA.symm.trans hbusy) Bool.false_ne_true) hcell
  case abortsLanded hl =>
    obtain ⟨hA, hB⟩ := by simpa [abortsLanded, chanAIdle_iff, chanBIdle_iff] using hl
    exact ⟨hboth, hcell, fun _ => ⟨hA.1, hB.1⟩, nofun⟩
  case stopConvert hmain => exact .of_idle (hstop hmain) rfl rfl
  all_goals exact .of_on ⟨rfl, nofun⟩ hboth hcell

theorem nextCell_lt : ∀ i : Fin 4, i < 3 → i + 1 ≠ 3 → i + 1 < 3 := by decide

/-- Every step keeps the channels in order. -/
theorem ChannelsInOrder.step (hs : ChannelsInOrder s) (h : step s = .next t) : ChannelsInOrder t := by
  cases step_samplingStep h with
  | kept _ hkept => exact hkept.channelsInOrder hs
  | reset => exact .of_idle ⟨rfl, rfl⟩ rfl rfl
  | convert w _ hrun =>
    have hon (hoff : pipelineIsOff s = true) : False := by simp [(hs.off hoff).2.1] at hrun
    exact ⟨hs.notBoth, hs.cellLeft, hs.stopped, fun hoff => (hon hoff).elim⟩
  | transferA _ hen =>
    obtain ⟨hbusy, hidx, hfifo⟩ := (transferAEnabled_iff s).1 hen
    obtain ⟨w, rest, hf⟩ := List.exists_cons_of_ne_nil hfifo
    have hA := transferA_chA_busy (s := s.advance) hf
    have hB := transferA_chB_busy (s := s.advance) hf
    have hmain : (transferA s.advance).main = s.main ∧ (transferA s.advance).coord = s.coord := by
      simp [transferA_eq (s := s.advance) hf]
    have hcell : (transferA s.advance).chA.idx = s.chA.idx + 1 := by simp [transferA_eq (s := s.advance) hf]
    refine .of_on ?_ (fun h => ?_) (fun h => ?_)
    · simpa only [pipelineIsOff, hmain] using hs.on_of_busy (.inl hbusy)
    · rw [Bool.eq_false_iff, ne_eq, hB, not_or]
      exact ⟨by simp [hs.notBoth hbusy], (hA.1 h).2⟩
    · rw [hcell]
      exact nextCell_lt s.chA.idx hidx (hA.1 h).2
  | transferB _ hbusy =>
    exact .of_on (hs.on_of_busy (.inr hbusy)) (fun _ => rfl) (fun _ => show (0 : Fin 4) < 3 by decide)
  | landAbort x =>
    cases x with
    | a =>
      refine ⟨nofun, nofun, fun h => ⟨rfl, (hs.stopped h).2⟩, fun h => ?_⟩
      obtain ⟨⟨-, hB⟩, hconv⟩ := hs.off h
      exact ⟨⟨rfl, hB⟩, hconv⟩
    | b =>
      refine ⟨fun _ => rfl, hs.cellLeft, fun h => ⟨(hs.stopped h).1, rfl⟩, fun h => ?_⟩
      obtain ⟨⟨hA, -⟩, hconv⟩ := hs.off h
      exact ⟨⟨hA, rfl⟩, hconv⟩
  | transition _ _ hin hsub => exact ChannelsInOrder.subStep (s := s.advance) hs.advance hin hsub

end
end Sys2Proof.Machine

/-! # No stale sample after a restart (41_sampling.md R168, 70_reset_and_hazards.md R298)

Two runs of one schedule from states that differ in the AnalogBuffer alone. Nothing but DRAIN_READ reads the buffer, and
nothing but DMA_A_XFER writes it, the same word at the same cell in both runs. So the runs differ in nothing else until
a snapshot is taken, and R298 puts three transfers before that: one for each cell. -/

namespace Sys2Proof.Machine

/-- The state with another content of the AnalogBuffer. -/
def State.withBuf (s : State) (b : Vector Cell 3) : State := { s with buf := b }

/-- The outcome with another content of the AnalogBuffer. -/
def outcomeWithBuf (b : Vector Cell 3) (o : Host.Outcome State Fault Refusal) : Host.Outcome State Fault Refusal :=
  andThen o fun t => .next (t.withBuf b)

section
variable {s t : State} {b : Vector Cell 3} {i : Instr}

/-! ## Only the transfer and the reads see the buffer -/

theorem guarded_withBuf {g g' : Bool} {f : State → State} (hg : g = g')
    (hf : g = true → f (s.withBuf b) = (f s).withBuf b) :
    guarded g f (s.withBuf b) = outcomeWithBuf b (guarded g' f s) := by
  subst hg
  cases g
  · rfl
  · simp only [guarded, if_true, hf rfl]
    rfl

theorem pwmOnly_withBuf {o o' : Host.Outcome State Fault Refusal} (ho : o' = outcomeWithBuf b o) :
    pwmOnly (s.withBuf b) o' = outcomeWithBuf b (pwmOnly s o) := by
  have hpwm : (s.withBuf b).cfg = s.cfg := rfl
  subst ho
  unfold pwmOnly
  rw [hpwm]
  split <;> rfl

theorem fireSlot_withBuf (m : Byte) : fireSlot m (s.withBuf b) = (fireSlot m s).withBuf b := by
  have hslot : (s.withBuf b).slot m = s.slot m := rfl
  unfold fireSlot
  rw [hslot]
  split <;> rfl

theorem endSlot_withBuf (m : Byte) : endSlot m (s.withBuf b) = (endSlot m s).withBuf b := by
  have hslot : (s.withBuf b).slot m = s.slot m := rfl
  unfold endSlot
  rw [hslot]
  split
  · split <;> rfl
  · rfl

theorem cancelSlot_withBuf (m : Byte) : cancelSlot m (s.withBuf b) = (cancelSlot m s).withBuf b := by
  have hslot : (s.withBuf b).slot m = s.slot m := rfl
  unfold cancelSlot
  rw [hslot]
  split <;> rfl

theorem popSample_withBuf : popSample (s.withBuf b) = (popSample s).withBuf b := by
  have hqueue : (s.withBuf b).queue = s.queue := rfl
  unfold popSample
  rw [hqueue]
  split <;> rfl

theorem drainEnter_withBuf : drainEnter (s.withBuf b) = (drainEnter s).withBuf b := by
  have hevents : (s.withBuf b).eventsEnabled = s.eventsEnabled := rfl
  unfold drainEnter
  rw [hevents]
  split <;> rfl

theorem drainReturn_withBuf : drainReturn (s.withBuf b) = (drainReturn s).withBuf b := by
  have hdrain : (s.withBuf b).drain = s.drain := rfl
  unfold drainReturn
  rw [hdrain]
  split <;> rfl

theorem pwmApply_withBuf (f d : Word) : pwmApply f d (s.withBuf b) = (pwmApply f d s).withBuf b := by
  unfold pwmApply
  split <;> rfl

theorem execConfigure_withBuf : execConfigure (s.withBuf b) = outcomeWithBuf b (execConfigure s) := by
  have hfree : mainFree (s.withBuf b) = mainFree s := rfl
  have hstopped : pipelineStopped (s.withBuf b) = pipelineStopped s := rfl
  unfold execConfigure
  rw [hfree, hstopped]
  split
  · rfl
  · exact guarded_withBuf (f := fun u => { u with configured := true }) rfl fun _ => rfl

/-- An operation other than a transfer or a read that happens does not see the buffer. -/
theorem exec_withBuf (hA : i = .dmaAXfer → transferAEnabled s = false) (hR : s.drain.cb.isSnap = false) :
    exec i (s.withBuf b) = outcomeWithBuf b (exec i s) := by
  have hread (k : Field) : readField k (s.withBuf b) = outcomeWithBuf b (readField k s) :=
    guarded_withBuf (f := fun u => u.replyRead k) rfl fun _ => rfl
  cases i
  case rdDiState | rdDoSet | rdDoClear | rdDoToggle | rdDoState | rdPtStart | rdPtStop | rdAnalog => exact hread _
  case rdPwmCfg | rdPwmStop => exact pwmOnly_withBuf (hread _)
  case wrPwmCfg | wrPwmStop => exact pwmOnly_withBuf (guarded_withBuf rfl fun _ => rfl)
  case wrDiState | wrAnalog => exact guarded_withBuf (f := fun u => u.raise _ _) rfl fun _ => rfl
  case dmaAXfer => exact guarded_withBuf rfl fun h => absurd ((hA rfl).symm.trans h) Bool.false_ne_true
  case update =>
    exact guarded_withBuf (f := fun u => (popSample u).goto .coordEval) rfl fun _ => by rw [popSample_withBuf]; rfl
  case configure => exact execConfigure_withBuf
  case setEventsEnabled => rfl
  case tickTime delta => exact guarded_withBuf (f := fun u => { u with now := u.now + delta }) rfl fun _ => rfl
  case diChange v => exact guarded_withBuf (f := fun u => { u with diPins := v }) rfl fun _ => rfl
  case ptFire m => exact guarded_withBuf rfl fun _ => fireSlot_withBuf m
  case ptEnd m => exact guarded_withBuf rfl fun _ => endSlot_withBuf m
  case dmaAbortLand x => exact guarded_withBuf (by cases x <;> rfl) fun _ => by cases x <;> rfl
  case drainFire => exact guarded_withBuf rfl fun _ => drainEnter_withBuf
  case drainRead => exact guarded_withBuf rfl fun h => absurd (hR.symm.trans h) Bool.false_ne_true
  case drainPush => exact guarded_withBuf rfl fun _ => drainReturn_withBuf
  all_goals exact guarded_withBuf rfl fun _ => rfl

/-- Nor does a turn of the main loop. -/
theorem mainTurn_withBuf : mainTurn (s.withBuf b) = outcomeWithBuf b (mainTurn s) := by
  have hrun : mainMayRun (s.withBuf b) = mainMayRun s := rfl
  have hmain : (s.withBuf b).main = s.main := rfl
  unfold mainTurn
  rw [hrun]
  split
  · unfold subStep
    rw [hmain]
    cases s.main
    case ptStartCancel | ptStopCancel | cancelSlots => dsimp only; rw [cancelSlot_withBuf]; rfl
    case pwmApply => dsimp only; rw [pwmApply_withBuf]; rfl
    case startSelect =>
      have hconf : (s.withBuf b).configured = s.configured := rfl
      dsimp only
      rw [hconf]
      split <;> rfl
    all_goals rfl
  · rfl

/-- Nor does a step, but for those two. -/
theorem step_withBuf (hA : takesTransferA s = false) (hR : s.drain.cb.isSnap = false) :
    step (s.withBuf b) = outcomeWithBuf b (step s) := by
  have hsched : (s.withBuf b).sched = s.sched := rfl
  unfold step
  rw [hsched]
  split
  case h_1 => exact mainTurn_withBuf (s := s.advance)
  case h_2 i hi =>
    refine exec_withBuf (s := s.advance) (fun h => ?_) hR
    have : transferAEnabled s = false := by simpa [takesTransferA, hi, h] using hA
    exact this
  case h_3 => rfl

/-- A transfer writes its word to its cell whatever the buffer held. -/
theorem transferA_withBuf {w : Cell} {rest : List Cell} (hf : s.adc.fifo = w :: rest) :
    transferA (s.withBuf b) = (transferA s).withBuf (b.setIfInBounds s.chA.idx.val w) := by
  rw [transferA_eq hf, transferA_eq (s := s.withBuf b) hf]
  rfl

end

/-! ## Three transfers before the first snapshot -/

/-- The buffer of `s` and the other buffer `b` after `k` transfers since startPipeline, fewer than three: they agree on
the first `k` cells, the pass under way goes on at cell `k`, and no drain callback has been entered. -/
structure Shielded (k : Nat) (s : State) (b : Vector Cell 3) : Prop where
  notDone : k < 3
  noCb : s.drain.cb = .noCb
  fresh : ∀ i (hi : i < 3), i < k → s.buf[i] = b[i]
  cell : s.chA.busy = true → s.chA.idx.val = k
  rearm : s.chB.busy = true → k = 0
  start : s.main = .startTrigger → k = 0

/-- The buffers agree, or less than three transfers have happened since startPipeline and no DRAIN_FIRE. -/
def Indistinct (w : Option Nat) (s : State) (b : Vector Cell 3) : Prop :=
  b = s.buf ∨ ∃ k, w = some k ∧ Shielded k s b

section
variable {s t : State} {b : Vector Cell 3} {k : Nat}

theorem Shielded.advance (h : Shielded k s b) : Shielded k s.advance b :=
  ⟨h.notDone, h.noCb, h.fresh, h.cell, h.rearm, h.start⟩

/-- startPipeline's first sub-step begins the count anew: no channel is busy. -/
theorem Shielded.restart (h : Shielded k s b) (hs : ChannelsInOrder s) (hmain : s.main = .startSelect)
    (hsub : subStep s = .next t) : Shielded 0 t b := by
  obtain ⟨⟨hA, hB⟩, -⟩ := hs.off (by rw [pipelineIsOff, hmain])
  cases subStep_transition (.inr (by rw [hmain]; rfl)) hsub
  case startSelect =>
    exact ⟨by decide, h.noCb, nofun, fun hbusy => absurd (hA.symm.trans hbusy) Bool.false_ne_true, fun _ => rfl,
      fun _ => rfl⟩
  all_goals simp_all

/-- The other sub-steps of the transitions move no cell and busy no channel but at startPipeline. -/
theorem Shielded.subStep (h : Shielded k s b) (hin : s.main = .coordEval ∨ s.main.outsideTransition = false)
    (hne : s.main ≠ .startSelect) (hsub : subStep s = .next t) : Shielded k t b := by
  obtain ⟨hdone, hcb, hfresh, hcell, hrearm, hstart⟩ := h
  cases subStep_transition hin hsub
  case startSelect hmain => exact absurd hmain hne
  case coordEval =>
    refine ⟨hdone, hcb, hfresh, hcell, hrearm, ?_⟩
    cases hc : s.coord <;> cases he : s.eventsEnabled <;> simp [coordNext, hc, he]
  case startTrigger hmain => exact ⟨hdone, hcb, hfresh, hcell, fun _ => hstart hmain, nofun⟩
  case stopDrain => exact ⟨hdone, rfl, hfresh, hcell, hrearm, nofun⟩
  case cancelSlot | cancelLast =>
    exact ⟨hdone, by simpa using hcb, by simpa using hfresh, by simpa using hcell, by simpa using hrearm, nofun⟩
  all_goals exact ⟨hdone, hcb, hfresh, hcell, hrearm, nofun⟩

theorem nextCell_val : ∀ i : Fin 4, i < 3 → (i + 1).val = i.val + 1 := by decide

/-- Channel A's transfer makes one more cell agree, and the third all of them. -/
theorem Shielded.transferA (h : Shielded k s b) (hs : ChannelsInOrder s) (hen : transferAEnabled s = true) :
    ∃ b', Machine.transferA (s.withBuf b) = (Machine.transferA s).withBuf b' ∧
      (b' = (Machine.transferA s).buf ∨ Shielded (k + 1) (Machine.transferA s) b') := by
  obtain ⟨hbusy, hidx, hfifo⟩ := (transferAEnabled_iff s).1 hen
  obtain ⟨w, rest, hf⟩ := List.exists_cons_of_ne_nil hfifo
  have hk : s.chA.idx.val = k := h.cell hbusy
  have hnext : (s.chA.idx + 1).val = k + 1 := by rw [nextCell_val s.chA.idx hidx, hk]
  have hfresh (i : Nat) (hi : i < 3) (hik : i < k + 1) :
      (s.buf.setIfInBounds s.chA.idx.val w)[i] = (b.setIfInBounds s.chA.idx.val w)[i] := by
    rw [Vector.getElem_setIfInBounds, Vector.getElem_setIfInBounds, hk]
    split
    · rfl
    · exact h.fresh i hi (by omega)
  refine ⟨_, transferA_withBuf hf, ?_⟩
  rw [transferA_eq hf]
  rcases Nat.lt_or_ge (k + 1) 3 with hmore | hdone
  · have hne : s.chA.idx + 1 ≠ 3 := fun h3 => by simp [h3] at hnext; omega
    refine .inr ⟨hmore, h.noCb, hfresh, fun _ => hnext, fun hB => ?_, fun hm => ?_⟩
    · simp [hs.notBoth hbusy, hne] at hB
    · have hm : s.main = .startTrigger := hm
      have hon := (hs.on_of_busy (.inl hbusy)).1
      simp [pipelineIsOff, hm] at hon
  · exact .inl (Vector.ext fun i hi => (hfresh i hi (by omega)).symm)

/-- The step of the other run, and what it leaves, while the buffers differ. -/
theorem Shielded.step (h : Shielded k s b) (hs : ChannelsInOrder s) (hok : firstFireIsFresh (some k) s = true)
    (hstep : step s = .next t) :
    ∃ b', step (s.withBuf b) = .next (t.withBuf b') ∧ Indistinct (watchRestart (some k) s) t b' := by
  have hfire : takesDrainFire s = false := by
    rw [Bool.eq_false_iff]
    intro hf
    exact absurd ((firstFireIsFresh_iff _ _).1 hok k rfl hf) (Nat.not_le.2 h.notDone)
  have hsnap : s.drain.cb.isSnap = false := by rw [h.noCb]; rfl
  have same {k' : Nat} (hA : takesTransferA s = false) (hw : watchRestart (some k) s = some k')
      (ht : Shielded k' t b) :
      ∃ b', Machine.step (s.withBuf b) = .next (t.withBuf b') ∧ Indistinct (watchRestart (some k) s) t b' :=
    ⟨b, by rw [step_withBuf hA hsnap, hstep]; rfl, .inr ⟨k', hw, ht⟩⟩
  have kept (hbegin : beginsPipeline s = false) (hA : takesTransferA s = false) :
      watchRestart (some k) s = some k := by
    simp [watchRestart, hbegin, hfire, hA]
  have unwatched {i : Instr} (hi : fetch s.sched = .operation i) (hne : i ≠ .dmaAXfer) :
      takesTransferA s = false ∧ watchRestart (some k) s = some k := by
    have hA : takesTransferA s = false := by simp [takesTransferA, hi, hne]
    exact ⟨hA, kept (not_beginsPipeline_of_operation hi) hA⟩
  cases step_samplingStep hstep with
  | kept hu hkept hdrain =>
    obtain ⟨-, hA, hbegin⟩ := hu
    have hdrain : t.drain = s.drain := hdrain.resolve_right (by simp [hfire, h.noCb])
    refine same hA (kept hbegin hA) ⟨h.notDone, hdrain ▸ h.noCb, hkept.buf ▸ h.fresh, hkept.chA ▸ h.cell,
      hkept.chB ▸ h.rearm, fun hm => ?_⟩
    rcases hkept.main with heq | ⟨-, hout⟩
    · exact h.start (heq ▸ hm)
    · simp [hm, MainPos.outsideTransition] at hout
  | reset hi hidle =>
    obtain ⟨hA, hw⟩ := unwatched hi nofun
    exact same hA hw ⟨h.notDone, rfl, h.fresh, nofun, nofun, h.start⟩
  | convert w hi =>
    obtain ⟨hA, hw⟩ := unwatched hi nofun
    exact same hA hw ⟨h.notDone, h.noCb, h.fresh, h.cell, h.rearm, h.start⟩
  | transferB hi hbusy =>
    obtain ⟨hA, hw⟩ := unwatched hi nofun
    exact same hA hw ⟨h.notDone, h.noCb, h.fresh, fun _ => (h.rearm hbusy).symm, nofun, h.start⟩
  | landAbort x hi =>
    obtain ⟨hA, hw⟩ := unwatched hi nofun
    cases x with
    | a => exact same hA hw ⟨h.notDone, h.noCb, h.fresh, nofun, h.rearm, h.start⟩
    | b => exact same hA hw ⟨h.notDone, h.noCb, h.fresh, h.cell, nofun, h.start⟩
  | transferA hi hen =>
    have hw : watchRestart (some k) s = some (k + 1) := by
      simp [watchRestart, not_beginsPipeline_of_operation hi, hfire, takesTransferA, hi, hen]
    obtain ⟨b', heq, h'⟩ := Shielded.transferA (s := s.advance) h.advance hs.advance hen
    refine ⟨b', ?_, h'.imp_right fun h' => ⟨k + 1, hw, h'⟩⟩
    have hstep' : Machine.step (s.withBuf b) = exec .dmaAXfer (s.withBuf b).advance := by
      simp only [Machine.step, State.withBuf, hi]
    rw [hstep', ← heq]
    exact guarded_of_true (g := transferAEnabled s) hen _ _
  | transition hi hrun hin hsub =>
    have hA : takesTransferA s = false := by simp [takesTransferA, hi]
    by_cases hmain : s.main = .startSelect
    · refine same (k' := 0) hA (by simp [watchRestart, beginsPipeline, hi, hmain, hrun]) ?_
      exact Shielded.restart (s := s.advance) h.advance hs.advance hmain hsub
    · refine same hA (kept (by simp [beginsPipeline, hmain]) hA) ?_
      exact Shielded.subStep (s := s.advance) h.advance hin hmain hsub

/-- Two runs from states that differ in the buffer alone, with what the watcher of R298 remembers. -/
theorem run_withBuf {n : Nat} {w : Option Nat} (hs : ChannelsInOrder s) (h : Indistinct w s b)
    (hfresh : restartsFresh n w s = true) (hrun : run n s = .next t) :
    ∃ b', run n (s.withBuf b) = .next (t.withBuf b') := by
  induction n generalizing w s b with
  | zero => cases hrun; exact ⟨b, rfl⟩
  | succ n ih =>
    obtain ⟨u, hstep, hrest⟩ := run_succ_next.1 hrun
    obtain ⟨hok, hfresh⟩ := (alongRun_succ hstep).1 hfresh
    obtain ⟨b', hstep', h'⟩ : ∃ b', Machine.step (s.withBuf b) = .next (u.withBuf b') ∧
        Indistinct (watchRestart w s) u b' := by
      rcases h with rfl | ⟨k, rfl, h⟩
      · exact ⟨u.buf, hstep, .inl rfl⟩
      · exact h.step hs hok hstep
    obtain ⟨b'', hrun''⟩ := ih (hs.step hstep) h' hfresh hrest
    exact ⟨b'', run_succ_next.2 ⟨_, hstep', hrun''⟩⟩

end

/-- Settles O60: at startPipeline no channel is busy and no callback in flight, so no cell need agree. -/
theorem noStaleSampleAfterARestart : Obligations.NoStaleSampleAfterARestart := by
  unfold Obligations.NoStaleSampleAfterARestart
  intro s t stale n hmain hsound hfresh hrun
  obtain ⟨hA, -, hB, -, hconv, hfifo, -, hcb⟩ :=
    (pipelineStopped_iff s).1 (pipelineStopped_of_startSelect hmain hsound)
  have hshield : Shielded 0 s stale :=
    ⟨by decide, hcb, nofun, fun h => absurd (hA.symm.trans h) Bool.false_ne_true, fun _ => rfl, fun _ => rfl⟩
  obtain ⟨b, h⟩ := run_withBuf (.of_idle ⟨hA, hB⟩ hconv hfifo) (.inr ⟨0, rfl, hshield⟩) hfresh hrun
  exact ⟨t.withBuf b, h, rfl⟩

end Sys2Proof.Machine

/-! # Cell `i` holds channel `i` (41_sampling.md R147, R167, 70_reset_and_hazards.md R291)

A round of conversions with prompt transfers is three times one conversion and its transfer, then Channel B. Along a run
the converter's round-robin pointer and the cell the channels go on at stay in step, as long as a conversion finds the
queue empty: which either wording of R291's assumption gives, wherever a channel is busy to take the word. -/

namespace Sys2Proof.Machine

/-! ## One round (R101) -/

section
variable {s : State}

theorem exec_adcConvert_of_empty (w : Cell) (hrun : s.adc.running = true) (hfifo : s.adc.fifo = [])
    (hdepth : 0 < s.cfg.adcFifoDepth) :
    exec (.adcConvert w) s = .next { s with adc := { s.adc with fifo := [w], rr := s.adc.rr + 1 } } := by
  have hconv : exec (.adcConvert w) s = .next (convert w s) := guarded_of_true hrun _ _
  simp [hconv, convert, hfifo, hdepth]

/-- The state in a round: the converter at channel `r`, the buffer `b`, Channel A at cell `i`. -/
def State.inRound (s : State) (r : Fin 3) (b : Vector Cell 3) (i : Fin 4) : State :=
  { s with adc := { s.adc with rr := r }, buf := b, chA := { s.chA with idx := i } }

/-- A conversion and its prompt transfer: the word is in its cell and the queue is empty again. -/
theorem execAll_convert_transfer {r : Fin 3} {b : Vector Cell 3} {i : Fin 4} (w : Cell) (hrun : s.adc.running = true)
    (hfifo : s.adc.fifo = []) (hdepth : 0 < s.cfg.adcFifoDepth) (hbusy : s.chA.busy = true) (hi : i < 3) :
    execAll [.adcConvert w, .dmaAXfer] (s.inRound r b i) =
      .next { s.inRound (r + 1) (b.setIfInBounds i.val w) (i + 1) with
        chA := { s.chA with idx := i + 1, busy := !decide (i + 1 = 3) }
        chB := { s.chB with busy := s.chB.busy || decide (i + 1 = 3) } } := by
  have hconv := exec_adcConvert_of_empty (s := s.inRound r b i) w hrun hfifo hdepth
  rw [execAll, hconv, andThen_next, execAll,
    exec_dmaAXfer_of_ready (w := w) (rest := []) (by exact hbusy) (by exact hi) rfl, andThen_next,
    transferA_eq (w := w) (rest := []) rfl]
  simp [execAll, State.inRound, hbusy, hfifo]

theorem execAll_roundOps (v0 v1 v2 : Cell) (hrun : s.adc.running = true) (hfifo : s.adc.fifo = [])
    (hdepth : 0 < s.cfg.adcFifoDepth) (hbusy : s.chA.busy = true) (hidx : s.chA.idx = 0) (hB : s.chB.busy = false) :
    execAll (roundOps v0 v1 v2) s = .next { s with buf := #v[v0, v1, v2] } := by
  have move {r : Fin 3} {b : Vector Cell 3} {i : Fin 4} (w : Cell) (hi : i < 3 ∧ i + 1 ≠ 3) :
      execAll [.adcConvert w, .dmaAXfer] (s.inRound r b i) =
        .next (s.inRound (r + 1) (b.setIfInBounds i.val w) (i + 1)) := by
    rw [execAll_convert_transfer w hrun hfifo hdepth hbusy hi.1]
    simp [State.inRound, hbusy, hi.2]
  have hsplit : roundOps v0 v1 v2 = [Instr.adcConvert v0, .dmaAXfer] ++ ([Instr.adcConvert v1, .dmaAXfer] ++
      ([Instr.adcConvert v2, .dmaAXfer] ++ [Instr.dmaBXfer])) := rfl
  have hstart : s = s.inRound s.adc.rr s.buf 0 := by rw [← hidx]; rfl
  have hrr : s.adc.rr + 1 + 1 + 1 = s.adc.rr := by omega
  have hA : s.chA = { busy := true, idx := 0, abortReq := s.chA.abortReq } := by rw [← hbusy, ← hidx]
  have hbuf : ((s.buf.setIfInBounds 0 v0).setIfInBounds 1 v1).setIfInBounds 2 v2 = #v[v0, v1, v2] := by
    rw [(setCell_eq s.buf v0).1, (setCell_eq _ v1).2.1, (setCell_eq _ v2).2.2]
    rfl
  conv_lhs => rw [hstart]
  rw [hsplit, execAll_append, move v0 (by decide), andThen_next, execAll_append, move v1 (by decide),
    andThen_next, execAll_append, execAll_convert_transfer v2 hrun hfifo hdepth hbusy (by decide), andThen_next]
  have hlast : ∀ u : State, u.chB.busy = true → execAll [.dmaBXfer] u = .next (transferB u) := fun u hu => by
    simp only [execAll, exec, execDmaBXfer, guarded_of_true hu, andThen_next]
  rw [hlast _ (Bool.or_true _)]
  have hB : s.chB = { busy := false, abortReq := s.chB.abortReq } := by rw [← hB]
  simp [transferB, State.inRound, hrr, hbuf, ← hA, ← hB]

end

/-! ## The converter in step with the channels (R167) -/

/-- The cell that the busy channel goes on at is `c`: Channel A's next, or the first, which Channel B re-arms A at. -/
def GoesOnAt (s : State) (c : Fin 3) : Prop :=
  (s.chA.busy = true → s.chA.idx.val = c.val) ∧ (s.chB.busy = true → c = 0)

/-- The word for cell `c` is the next to be converted, or the one that waits, and then of its channel's kind. -/
def WordFor (P : Fin 3 → Cell → Prop) (s : State) (c : Fin 3) : Prop :=
  (s.adc.fifo = [] ∧ s.adc.rr = c) ∨ ∃ w, s.adc.fifo = [w] ∧ P c w ∧ s.adc.rr = c + 1

/-- With the channels in order: while one is busy, the converter is in step with the cell it goes on at; and cell `i`,
where `kept i` asks for it, holds a word of kind `P i`. -/
structure InStep (P : Fin 3 → Cell → Prop) (kept : Fin 3 → Prop) (s : State) : Prop where
  order : ChannelsInOrder s
  depth : 0 < s.cfg.adcFifoDepth
  aligned : ¬ ChannelsIdle s → ∃ c, GoesOnAt s c ∧ WordFor P s c
  start : s.main = .startTrigger → s.adc.rr = 0
  cells : ∀ i : Fin 3, kept i → P i s.buf[i]

section
variable {s t : State} {P : Fin 3 → Cell → Prop} {kept : Fin 3 → Prop}

theorem InStep.advance (h : InStep P kept s) : InStep P kept s.advance :=
  ⟨h.order.advance, h.depth, h.aligned, h.start, h.cells⟩

/-- A conversion that finds the queue empty, or no channel busy. -/
theorem InStep.convert {w : Cell} (h : InStep P kept s) (hrun : s.adc.running = true)
    (hfifo : s.adc.fifo = [] ∨ ChannelsIdle s) (hdraw : P s.adc.rr w) (hord : ChannelsInOrder (convert w s)) :
    InStep P kept (Machine.convert w s) := by
  refine ⟨hord, h.depth, fun hbusy => ?_, fun hm => ?_, h.cells⟩
  · have hfifo : s.adc.fifo = [] := hfifo.resolve_right hbusy
    obtain ⟨c, hgoes, ⟨-, hrr⟩ | ⟨v, hv, -⟩⟩ := h.aligned hbusy
    · exact ⟨c, hgoes, .inr ⟨w, by simp [Machine.convert, hfifo, h.depth], hrr ▸ hdraw, by simp [Machine.convert, hrr]⟩⟩
    · simp [hfifo] at hv
  · have hm : s.main = .startTrigger := hm
    simp [(h.order.off (by rw [pipelineIsOff, hm])).2.1] at hrun

/-- A transfer of Channel A: the waiting word is the one for its cell. -/
theorem InStep.transferA (h : InStep P kept s) (hen : transferAEnabled s = true)
    (hord : ChannelsInOrder (transferA s)) : InStep P kept (Machine.transferA s) := by
  obtain ⟨hbusy, hidx, hfifo⟩ := (transferAEnabled_iff s).1 hen
  obtain ⟨c, ⟨hcell, -⟩, ⟨hnil, -⟩ | ⟨w, hf, hw, hrr⟩⟩ := h.aligned (fun hidle => by simp [hidle.1] at hbusy)
  · exact absurd hnil hfifo
  have hc : s.chA.idx.val = c.val := hcell hbusy
  have hA := transferA_chA_busy hf
  have hB := transferA_chB_busy hf
  have hnext : (s.chA.idx + 1).val = c.val + 1 := by rw [nextCell_val _ hidx, hc]
  have hchA : (Machine.transferA s).chA.idx = s.chA.idx + 1 := by rw [transferA_eq hf]
  have hadc : (Machine.transferA s).adc = { s.adc with fifo := [] } := by rw [transferA_eq hf]
  have hbuf : (Machine.transferA s).buf = s.buf.setIfInBounds c.val w := by rw [transferA_eq hf, hc]
  have hmain : (Machine.transferA s).main = s.main := by rw [transferA_eq hf]
  have hcfg : (Machine.transferA s).cfg = s.cfg := by rw [transferA_eq hf]
  refine ⟨hord, hcfg ▸ h.depth, fun _ => ⟨c + 1, ⟨fun hA' => ?_, fun hB' => ?_⟩, .inl ?_⟩, fun hm => ?_, fun i hi => ?_⟩
  · have hlt : (s.chA.idx + 1).val < 3 := nextCell_lt _ hidx (hA.1 hA').2
    rw [hchA, hnext, Fin.val_add, Fin.val_one, Nat.mod_eq_of_lt (by omega)]
  · have h3 : s.chA.idx + 1 = 3 := (hB.1 hB').resolve_left (by simp [h.order.notBoth hbusy])
    have hc2 : c.val + 1 = 3 := by rw [← hnext, h3]; rfl
    omega
  · rw [hadc]; exact ⟨rfl, hrr⟩
  · rw [hadc]; exact h.start (hmain ▸ hm)
  · simp only [hbuf, Fin.getElem_fin, Vector.getElem_setIfInBounds]
    split
    · next heq => exact Fin.ext heq ▸ hw
    · exact h.cells i hi

/-- Another step keeps it where it keeps what it speaks of, or leaves no channel busy. -/
theorem InStep.of_kept (h : InStep P kept s) (hord : ChannelsInOrder t) (hcfg : t.cfg = s.cfg) (hbuf : t.buf = s.buf)
    (halign : ¬ ChannelsIdle t → ∃ c, GoesOnAt t c ∧ WordFor P t c) (hstart : t.main = .startTrigger → t.adc.rr = 0) :
    InStep P kept t :=
  ⟨hord, hcfg ▸ h.depth, halign, hstart, hbuf ▸ h.cells⟩

/-- A sub-step of a transition. -/
theorem InStep.subStep (h : InStep P kept s) (hin : s.main = .coordEval ∨ s.main.outsideTransition = false)
    (hsub : subStep s = .next t) : InStep P kept t := by
  have hord := h.order.subStep hin hsub
  obtain ⟨horder, hdepth, haligned, hstart, hcells⟩ := h
  cases subStep_transition hin hsub
  case coordEval =>
    refine ⟨hord, hdepth, haligned, ?_, hcells⟩
    cases hc : s.coord <;> cases he : s.eventsEnabled <;> simp [coordNext, hc, he]
  case startSelect hmain =>
    obtain ⟨hidle, -⟩ := horder.off (by rw [pipelineIsOff, hmain])
    exact ⟨hord, hdepth, fun hbusy => absurd hidle hbusy, fun _ => rfl, hcells⟩
  case startTrigger hmain =>
    obtain ⟨hidle, -, hfifo⟩ := horder.off (by rw [pipelineIsOff, hmain])
    exact ⟨hord, hdepth, fun _ => ⟨0, ⟨fun hA => absurd (hidle.1.symm.trans hA) Bool.false_ne_true, fun _ => rfl⟩,
      .inl ⟨hfifo, hstart hmain⟩⟩, nofun, hcells⟩
  case stopConvert hmain =>
    exact ⟨hord, hdepth, fun hbusy => absurd (horder.stopped hmain) hbusy, nofun, hcells⟩
  case cancelSlot | cancelLast =>
    exact ⟨hord, by simpa using hdepth, by simpa [ChannelsIdle, GoesOnAt, WordFor] using haligned, nofun,
      by simpa using hcells⟩
  all_goals exact ⟨hord, hdepth, haligned, nofun, hcells⟩

/-- Every step, where a conversion finds the queue empty or no channel busy. -/
theorem InStep.step (h : InStep P kept s) (hconv : takesConvert s = true → s.adc.fifo = [] ∨ ChannelsIdle s)
    (hdraw : ∀ w, takesConvert s = true → fetch s.sched = .operation (.adcConvert w) → P s.adc.rr w)
    (hstep : step s = .next t) : InStep P kept t := by
  have hord := h.order.step hstep
  cases step_samplingStep hstep with
  | kept _ hkept =>
    refine h.of_kept hord hkept.cfg hkept.buf ?_ fun hm => ?_
    · simpa only [ChannelsIdle, GoesOnAt, WordFor, hkept.chA, hkept.chB, hkept.adc] using h.aligned
    · rcases hkept.main with heq | ⟨-, hout⟩
      · exact hkept.adc ▸ h.start (heq ▸ hm)
      · simp [hm, MainPos.outsideTransition] at hout
  | reset _ hidle =>
    refine h.of_kept hord rfl rfl (fun hbusy => absurd ⟨rfl, rfl⟩ hbusy) fun _ => rfl
  | convert w hi hrun =>
    have htakes : takesConvert s = true := (takesConvert_iff s).2 ⟨⟨w, hi⟩, hrun⟩
    exact InStep.convert h.advance hrun (hconv htakes) (hdraw w htakes hi) hord
  | transferA _ hen => exact InStep.transferA h.advance hen hord
  | transferB _ hbusy =>
    obtain ⟨c, ⟨-, hc⟩, hword⟩ := h.aligned (fun hidle => by simp [hidle.2] at hbusy)
    exact h.of_kept hord rfl rfl (fun _ => ⟨c, ⟨fun _ => by rw [hc hbusy]; rfl, nofun⟩, hword⟩) h.start
  | landAbort x =>
    cases x with
    | a =>
      refine h.of_kept hord rfl rfl (fun hbusy => ?_) h.start
      obtain ⟨c, ⟨-, hc⟩, hword⟩ := h.aligned fun hidle => hbusy ⟨rfl, hidle.2⟩
      exact ⟨c, ⟨nofun, hc⟩, hword⟩
    | b =>
      refine h.of_kept hord rfl rfl (fun hbusy => ?_) h.start
      obtain ⟨c, ⟨hc, -⟩, hword⟩ := h.aligned fun hidle => hbusy ⟨hidle.1, rfl⟩
      exact ⟨c, ⟨hc, nofun⟩, hword⟩
  | transition _ _ hin hsub => exact InStep.subStep h.advance hin hsub

/-! ## The two wordings of R291 -/

/-- Only a conversion puts a word into the queue. -/
theorem fifo_nil_of_step (hfifo : s.adc.fifo = []) (hconv : takesConvert s = false) (hstep : step s = .next t) :
    t.adc.fifo = [] := by
  cases step_samplingStep hstep with
  | kept _ hkept => rw [hkept.adc, hfifo]
  | reset => rfl
  | convert w hi hrun => simp [(takesConvert_iff s).2 ⟨⟨w, hi⟩, hrun⟩] at hconv
  | transferA _ hen => exact absurd hfifo ((transferAEnabled_iff s).1 hen).2.2
  | transferB => exact hfifo
  | landAbort x => cases x <;> exact hfifo
  | transition _ _ hin hsub =>
    cases subStep_transition (s := s.advance) hin hsub
    case stopConvert => rfl
    case cancelSlot | cancelLast => simpa using hfifo
    all_goals exact hfifo

/-- No conversion has happened since startPipeline, so no word waits. -/
def NoneYet (seen : Bool) (s : State) : Prop := seen = false → s.adc.fifo = []

theorem NoneYet.step {seen : Bool} (h : NoneYet seen s) (hs : ChannelsInOrder s) (hstep : step s = .next t) :
    NoneYet (watchConvert seen s) t := by
  intro hw
  unfold watchConvert at hw
  split at hw
  case isTrue hbegin =>
    obtain ⟨⟨hturn, hmain⟩, -⟩ := by simpa [beginsPipeline] using hbegin
    exact fifo_nil_of_step (hs.off (by rw [pipelineIsOff, hmain])).2.2 (by simp [takesConvert, hturn]) hstep
  case isFalse =>
    obtain ⟨hseen, hconv⟩ := Bool.or_eq_false_iff.1 hw
    exact fifo_nil_of_step (h hseen) hconv hstep

/-- R291's first wording: with no transfer enabled, a busy channel waits for a word. -/
theorem empty_of_transfersTaken {seen : Bool} (h : NoneYet seen s) (hs : ChannelsInOrder s)
    (hok : transfersTaken seen s = true) (hconv : takesConvert s = true) : s.adc.fifo = [] ∨ ChannelsIdle s := by
  cases seen with
  | false => exact .inl (h rfl)
  | true =>
    obtain ⟨hA, hB⟩ : transferAEnabled s = false ∧ s.chB.busy = false := by simpa [transfersTaken, hconv] using hok
    cases hbusy : s.chA.busy with
    | false => exact .inr ⟨hbusy, hB⟩
    | true =>
      by_contra hne
      exact absurd ((transferAEnabled_iff s).2 ⟨hbusy, hs.cellLeft hbusy, fun he => hne (.inl he)⟩) (by simp [hA])

/-- R291's second wording. -/
theorem empty_of_converterKeptUp (hok : converterKeptUp s = true) (hconv : takesConvert s = true) :
    s.adc.fifo = [] := by
  simpa [converterKeptUp, hconv] using hok

/-! ## Along a run -/

/-- The conversion that the next step takes, if it takes one, draws a word of its channel's kind. -/
def DrawsItsKind (P : Fin 3 → Cell → Prop) (s : State) : Prop :=
  ∀ w, takesConvert s = true → fetch s.sched = .operation (.adcConvert w) → P s.adc.rr w

/-- An induction over a run under an assumption and a property of every state it passes. -/
theorem run_induction {W : Type} {watch : W → State → W} {ok : W → State → Bool} {D : State → Prop}
    {Inv : W → State → Prop}
    (keep : ∀ w s t, Machine.step s = .next t → ok w s = true → D s → Inv w s → Inv (watch w s) t) {n : Nat} :
    ∀ {w : W} {s t : State}, Inv w s → alongRun watch ok n w s = true →
      (∀ k u, k < n → run k s = .next u → D u) → run n s = .next t → ∃ w', Inv w' t := by
  induction n with
  | zero => intro w s t hi _ _ hr; cases hr; exact ⟨w, hi⟩
  | succ n ih =>
    intro w s t hi ha hD hr
    obtain ⟨u, hs, hu⟩ := run_succ_next.1 hr
    obtain ⟨hok, hrest⟩ := (alongRun_succ hs).1 ha
    exact ih (keep w s u hs hok (hD 0 s (Nat.succ_pos n) rfl) hi) hrest
      (fun k v hk hv => hD (k + 1) v (Nat.succ_lt_succ hk) (run_succ_next.2 ⟨u, hs, hv⟩)) hu

/-- A run that meets R291's assumption, in either wording, and draws words of the right kinds. -/
theorem InStep.run {n : Nat} (h : InStep P kept s) (hfifo : s.adc.fifo = [])
    (hassume : channelsKeepUp n false s = true ∨ resultQueueShort n s = true)
    (hdraw : ∀ k u, k < n → run k s = .next u → DrawsItsKind P u) (hrun : run n s = .next t) : InStep P kept t := by
  rcases hassume with hup | hshort
  · obtain ⟨_, ht, -⟩ := run_induction (Inv := fun seen u => InStep P kept u ∧ NoneYet seen u)
      (fun seen u v hstep hok hD hu =>
        ⟨hu.1.step (empty_of_transfersTaken hu.2 hu.1.order hok) hD hstep, hu.2.step hu.1.order hstep⟩)
      ⟨h, fun _ => hfifo⟩ hup hdraw hrun
    exact ht
  · obtain ⟨_, ht⟩ := run_induction (Inv := fun _ u => InStep P kept u)
      (fun _ u v hstep hok hD hu => hu.step (fun hconv => .inl (empty_of_converterKeptUp hok hconv)) hD hstep)
      h hshort hdraw hrun
    exact ht

end

/-- Settles O32: the round by its three conversions; and at startPipeline no channel is busy, so the converter is in
step. -/
theorem roundFillsTheBuffer : Obligations.RoundFillsTheBuffer := by
  unfold Obligations.RoundFillsTheBuffer
  refine ⟨fun s v0 v1 v2 => execAll_roundOps v0 v1 v2, ?_⟩
  intro s t n P hmain hsound hdepth hassume hdraw hrun i hi
  obtain ⟨hA, -, hB, -, hconv, hfifo, -, -⟩ :=
    (pipelineStopped_iff s).1 (pipelineStopped_of_startSelect hmain hsound)
  have hstart : InStep P (fun j => P j s.buf[j]) s :=
    ⟨.of_idle ⟨hA, hB⟩ hconv hfifo, hdepth, fun hbusy => absurd ⟨hA, hB⟩ hbusy, fun h => by simp [hmain] at h,
      fun _ h => h⟩
  exact (hstart.run hfifo hassume (fun k u hk hu w hw hf => hdraw k u w hk hu hw hf) hrun).cells i hi

end Sys2Proof.Machine

/-! # The abort loop under weak fairness (41_sampling.md R149, R157, 00_scope.md R12)

What a fair run must reach is chained out of single obliged steps: where a step stays enabled until its goal is reached
and brings the goal about, the goal is reached. The abort loop takes four such legs: the two landings, then its own two
sub-steps. -/

namespace Sys2Proof.Machine

/-! ## Leads-to (R12) -/

/-- A predicate of states that does not look at the turns still to come. -/
def IgnoresTurns (I : State → Prop) : Prop := ∀ s turns, I s → I (s.arrive turns)

section
variable {σ : Nat → State} {I G : State → Prop}

theorem IsRun.step_of (hrun : IsRun σ) (hI : IgnoresTurns I) {n : Nat} (h : ∀ t, step (σ n) = .next t → I t) :
    I (σ (n + 1)) := by
  obtain ⟨t, turns, hstep, hnext⟩ := hrun n
  rw [hnext]
  exact hI t turns (h t hstep)

/-- In a weakly fair run, a step that is enabled throughout `I`, and leads from `I` to `G`, while every other step keeps
`I` or reaches `G` too, brings the run from `I` to `G`. -/
theorem WeaklyFair.leadsTo (hfair : WeaklyFair σ) (hrun : IsRun σ) (o : ObligedStep) (hI : IgnoresTurns I)
    (hG : IgnoresTurns G) (enabled : ∀ s, I s → stepEnabled o s)
    (keep : ∀ s t, I s → step s = .next t → I t ∨ G t)
    (act : ∀ s t, I s → stepHappens o s → step s = .next t → G t) {n : Nat} (h : I (σ n)) :
    ∃ k, n ≤ k ∧ G (σ k) := by
  by_contra hnever
  have hstays (k : Nat) (hk : n ≤ k) : I (σ k) := by
    induction k, hk using Nat.le_induction with
    | base => exact h
    | succ k hk ih =>
      have hor : I (σ (k + 1)) ∨ G (σ (k + 1)) :=
        hrun.step_of (I := fun s => I s ∨ G s) (fun s turns => Or.imp (hI s turns) (hG s turns))
          fun t => keep _ _ ih
      exact hor.resolve_right fun hg => hnever ⟨k + 1, by omega, hg⟩
  obtain ⟨k, hk, hhappens⟩ := hfair o n fun k hk => enabled _ (hstays k hk)
  exact hnever ⟨k + 1, by omega, hrun.step_of hG fun t => act _ _ (hstays k hk) hhappens⟩

end

/-! ## A requested abort lands -/

section
variable {s t : State}

/-- The channel neither is busy nor has an abort requested (R150). -/
def channelIdle (x : Channel) (s : State) : Bool :=
  match x with
  | .a => chanAIdle s
  | .b => chanBIdle s

theorem not_requested_of_idle (x : Channel) (h : channelIdle x s = true) : abortRequested x s = false := by
  cases x with
  | a => exact ((chanAIdle_iff s).1 h).2
  | b => exact ((chanBIdle_iff s).1 h).2

/-- A request stays until the channel is idle. -/
theorem abortRequested_step (x : Channel) (h : abortRequested x s = true) (hstep : step s = .next t) :
    abortRequested x t = true ∨ channelIdle x t = true := by
  cases step_samplingStep hstep with
  | kept _ hkept => exact .inl (by cases x <;> simpa only [abortRequested, hkept.chA, hkept.chB] using h)
  | reset => exact .inr (by cases x <;> rfl)
  | convert => exact .inl (by cases x <;> exact h)
  | transferA _ hen =>
    obtain ⟨w, rest, hf⟩ := List.exists_cons_of_ne_nil ((transferAEnabled_iff s).1 hen).2.2
    rw [transferA_eq (s := s.advance) hf]
    exact .inl (by cases x <;> exact h)
  | transferB => exact .inl (by cases x <;> exact h)
  | landAbort y =>
    cases x <;> cases y
    case a.a | b.b => exact .inr rfl
    case a.b | b.a => exact .inl h
  | transition _ _ hin hsub =>
    left
    cases subStep_transition (s := s.advance) hin hsub
    case abortRequest => cases x <;> exact Bool.or_eq_true_iff.2 (.inl h)
    case cancelSlot | cancelLast => cases x <;> simpa [abortRequested] using h
    all_goals cases x <;> exact h

theorem eq_of_obligedTurn_abortLand {f : Fetched} {x : Channel} (h : obligedTurn f = some (.abortLand x)) :
    f = .operation (.dmaAbortLand x) := by
  cases f with
  | operation i => cases i <;> simp_all [obligedTurn, obligedStep]
  | _ => simp [obligedTurn] at h

theorem eq_of_obligedTurn_subStep {f : Fetched} (h : obligedTurn f = some .subStep) : f = .mainLoop := by
  cases f with
  | mainLoop => rfl
  | operation i => cases i <;> simp [obligedTurn, obligedStep] at h
  | noOperation => simp [obligedTurn] at h

/-- The landing answers the request. -/
theorem channelIdle_of_lands (x : Channel) (hhappens : stepHappens (.abortLand x) s) (hstep : step s = .next t) :
    channelIdle x t = true := by
  obtain ⟨hturn, hguard⟩ := hhappens
  have hturn := eq_of_obligedTurn_abortLand hturn
  rw [hturn] at hguard
  have hreq : abortRequested x s.advance = true := by cases x <;> exact hguard
  have hland : step s = .next (landAbort x s.advance) := by
    simp only [step, hturn]
    exact guarded_of_true hreq _ _
  cases hland.symm.trans hstep
  cases x <;> rfl

/-- The main loop's sub-step is its next one. -/
theorem subStep_of_happens (hhappens : stepHappens .subStep s) (hstep : step s = .next t) :
    subStep s.advance = .next t := by
  obtain ⟨hturn, hguard⟩ := hhappens
  have hturn := eq_of_obligedTurn_subStep hturn
  rw [hturn] at hguard
  have hrun : mainMayRun s.advance = true := (mainMayRun_iff _).2 hguard.2
  simpa only [step, hturn, mainTurn, hrun, if_true] using hstep

theorem abort_lands {σ : Nat → State} (hrun : IsRun σ) (hfair : WeaklyFair σ) (x : Channel) {n : Nat}
    (h : abortRequested x (σ n) = true) : ∃ k, n ≤ k ∧ channelIdle x (σ k) = true := by
  refine hfair.leadsTo hrun (.abortLand x) (I := fun s => abortRequested x s = true)
    (by cases x <;> exact fun _ _ => id) (by cases x <;> exact fun _ _ => id) (fun s hs => ?_)
    (fun s t => abortRequested_step x) (fun s t _ => channelIdle_of_lands x) h
  exact ⟨.operation (.dmaAbortLand x), rfl, by cases x <;> exact hs⟩

/-! ## The loop with neither channel busy -/

/-- The main loop is in the abort loop with the drain timer off and neither channel busy; the channels of `done` have no
abort requested. -/
structure InAbortLoop (done : List Channel) (s : State) : Prop where
  main : s.main = .abortRequest ∨ s.main = .abortTest
  drain : s.drain = { target := none, cb := .noCb }
  idle : ChannelsIdle s
  landed : ∀ x ∈ done, abortRequested x s = false

variable {done : List Channel}

theorem InAbortLoop.ignoresTurns : IgnoresTurns (InAbortLoop done) := by
  rintro s turns ⟨hmain, hdrain, hidle, hlanded⟩
  exact ⟨hmain, hdrain, hidle, fun x hx => by cases x <;> exact hlanded _ hx⟩

/-- With both requests landed the test passes. -/
theorem InAbortLoop.abortsLanded (h : InAbortLoop [.b, .a] s) : abortsLanded s = true := by
  obtain ⟨hA, hB⟩ := h.idle
  have hreqA : s.chA.abortReq = false := h.landed .a (by simp)
  have hreqB : s.chB.abortReq = false := h.landed .b (by simp)
  simp [Machine.abortsLanded, chanAIdle, chanBIdle, hA, hB, hreqA, hreqB]

/-- The loop's sub-step is always enabled. -/
theorem InAbortLoop.subStep_enabled (h : InAbortLoop done s) : stepEnabled .subStep s := by
  refine ⟨.mainLoop, rfl, fun hidle => ?_, by rw [h.drain]; rfl⟩
  rcases h.main with hm | hm <;> simp [hm] at hidle

/-- A step of another agent leaves the loop where it is and requests nothing; else it is the loop's own sub-step. -/
theorem InAbortLoop.step_cases (h : InAbortLoop done s) (hstep : step s = .next t) :
    (InAbortLoop done t ∧ t.main = s.main) ∨ (fetch s.sched = .mainLoop ∧ subStep s.advance = .next t) := by
  obtain ⟨hmain, hdrain, hidle, hlanded⟩ := h
  have hinside : s.main.outsideTransition = false := by rcases hmain with hm | hm <;> rw [hm] <;> rfl
  cases step_samplingStep hstep with
  | kept _ hkept hdrain' =>
    have hfire : takesDrainFire s = false := by simp [takesDrainFire, drainFireEnabled, due, hdrain]
    have hdrain' : t.drain = s.drain := hdrain'.resolve_right (by simp [hfire, hdrain])
    have hmain' : t.main = s.main := hkept.main.resolve_right fun hout => by simp [hinside] at hout
    refine .inl ⟨⟨hmain' ▸ hmain, hdrain' ▸ hdrain, by simpa only [ChannelsIdle, hkept.chA, hkept.chB] using hidle,
      fun x hx => ?_⟩, hmain'⟩
    cases x <;> simpa only [abortRequested, hkept.chA, hkept.chB] using hlanded _ hx
  | reset _ hm => simp [hm, MainPos.outsideTransition] at hinside
  | convert => exact .inl ⟨⟨hmain, hdrain, hidle, fun x hx => by cases x <;> exact hlanded _ hx⟩, rfl⟩
  | transferA _ hen => simp [((transferAEnabled_iff s).1 hen).1, ChannelsIdle] at hidle
  | transferB _ hbusy => simp [hbusy, ChannelsIdle] at hidle
  | landAbort y =>
    obtain ⟨hA, hB⟩ := hidle
    refine .inl ?_
    cases y
    · exact ⟨⟨hmain, hdrain, ⟨rfl, hB⟩, fun x hx => by cases x; rfl; exact hlanded _ hx⟩, rfl⟩
    · exact ⟨⟨hmain, hdrain, ⟨hA, rfl⟩, fun x hx => by cases x; exact hlanded _ hx; rfl⟩, rfl⟩
  | transition hturn _ _ hsub => exact .inr ⟨hturn, hsub⟩

/-- The request sub-step requests nothing of a channel that is not busy, and the test is next. -/
theorem InAbortLoop.of_abortRequest (h : InAbortLoop done s) (hm : s.main = .abortRequest)
    (hsub : subStep s.advance = .next t) : InAbortLoop done t ∧ t.main = .abortTest := by
  obtain ⟨hA, hB⟩ := h.idle
  simp only [subStep, State.advance_main, hm, Host.Outcome.next.injEq] at hsub
  subst hsub
  refine ⟨⟨.inr rfl, h.drain, ⟨hA, hB⟩, fun x hx => ?_⟩, rfl⟩
  have hx := h.landed x hx
  cases x <;> simpa [abortRequested, requestAborts, hA, hB] using hx

/-- The test sub-step leaves the loop when both channels report idle, and else goes round. -/
theorem InAbortLoop.of_abortTest (h : InAbortLoop done s) (hm : s.main = .abortTest)
    (hsub : subStep s.advance = .next t) :
    (Machine.abortsLanded s = true ∧ t.main = .stopConvert) ∨
    (Machine.abortsLanded s = false ∧ InAbortLoop done t) := by
  simp only [subStep, State.advance_main, hm, Host.Outcome.next.injEq] at hsub
  subst hsub
  cases hl : Machine.abortsLanded s with
  | true => exact .inl ⟨rfl, if_pos hl⟩
  | false =>
    refine .inr ⟨rfl, .inl (if_neg ?_), h.drain, h.idle, fun x hx => by cases x <;> exact h.landed _ hx⟩
    exact Bool.eq_false_iff.1 hl

/-- A step stays in the loop, unless the test passes. -/
theorem InAbortLoop.step (h : InAbortLoop done s) (hl : Machine.abortsLanded s = false) (hstep : step s = .next t) :
    InAbortLoop done t := by
  rcases h.step_cases hstep with ⟨ht, -⟩ | ⟨-, hsub⟩
  · exact ht
  · rcases h.main with hm | hm
    · exact (h.of_abortRequest hm hsub).1
    · exact ((h.of_abortTest hm hsub).resolve_left fun h' => by simp [hl] at h').2

end

section
variable {σ : Nat → State} {done : List Channel}

/-- In the loop a requested abort lands, and is not requested again. -/
theorem InAbortLoop.leadsTo_landed (hrun : IsRun σ) (hfair : WeaklyFair σ) (x : Channel) {n : Nat}
    (h : InAbortLoop done (σ n)) : ∃ k, n ≤ k ∧ InAbortLoop (x :: done) (σ k) := by
  have land {s : State} (hs : InAbortLoop done s) (hx : abortRequested x s = false) : InAbortLoop (x :: done) s :=
    ⟨hs.main, hs.drain, hs.idle, List.forall_mem_cons.2 ⟨hx, hs.landed⟩⟩
  have waiting {s : State} (hx : abortRequested x s = true) : Machine.abortsLanded s = false := by
    cases x <;> simp_all [abortRequested, Machine.abortsLanded, chanAIdle, chanBIdle]
  cases hx : abortRequested x (σ n) with
  | false => exact ⟨n, le_refl n, land h hx⟩
  | true =>
    refine hfair.leadsTo hrun (.abortLand x) (I := fun s => InAbortLoop done s ∧ abortRequested x s = true)
      (fun s turns hs => ⟨InAbortLoop.ignoresTurns s turns hs.1, by cases x <;> exact hs.2⟩) InAbortLoop.ignoresTurns
      (fun s hs => ⟨.operation (.dmaAbortLand x), rfl, by cases x <;> exact hs.2⟩) (fun s t hs hstep => ?_)
      (fun s t hs hhappens hstep => ?_) ⟨h, hx⟩
    · have ht : InAbortLoop done t := hs.1.step (waiting hs.2) hstep
      cases hxt : abortRequested x t with
      | true => exact .inl ⟨ht, rfl⟩
      | false => exact .inr (land ht hxt)
    · have hidle := channelIdle_of_lands x hhappens hstep
      exact land (hs.1.step (waiting hs.2) hstep) (not_requested_of_idle x hidle)

/-- With no abort outstanding the request sub-step is followed by the test, -/
theorem InAbortLoop.leadsTo_abortTest (hrun : IsRun σ) (hfair : WeaklyFair σ) {n : Nat}
    (h : InAbortLoop done (σ n)) : ∃ k, n ≤ k ∧ InAbortLoop done (σ k) ∧ (σ k).main = .abortTest := by
  rcases h.main with hm | hm
  · refine hfair.leadsTo hrun .subStep (I := fun s => InAbortLoop done s ∧ s.main = .abortRequest)
      (G := fun s => InAbortLoop done s ∧ s.main = .abortTest)
      (fun s turns hs => ⟨InAbortLoop.ignoresTurns s turns hs.1, hs.2⟩)
      (fun s turns hs => ⟨InAbortLoop.ignoresTurns s turns hs.1, hs.2⟩)
      (fun s hs => hs.1.subStep_enabled) (fun s t hs hstep => ?_)
      (fun s t hs hhappens hstep => hs.1.of_abortRequest hs.2 (subStep_of_happens hhappens hstep)) ⟨h, hm⟩
    rcases hs.1.step_cases hstep with ⟨ht, htm⟩ | ⟨-, hsub⟩
    · exact .inl ⟨ht, htm.trans hs.2⟩
    · exact .inr (hs.1.of_abortRequest hs.2 hsub)
  · exact ⟨n, le_refl n, h, hm⟩

/-- and the test leaves the loop. -/
theorem InAbortLoop.leadsTo_stopConvert (hrun : IsRun σ) (hfair : WeaklyFair σ) {n : Nat}
    (h : InAbortLoop [.b, .a] (σ n)) (hm : (σ n).main = .abortTest) : ∃ k, n ≤ k ∧ (σ k).main = .stopConvert := by
  have leave {s t : State} (hs : InAbortLoop [.b, .a] s ∧ s.main = .abortTest) (hsub : subStep s.advance = .next t) :
      t.main = .stopConvert :=
    ((hs.1.of_abortTest hs.2 hsub).resolve_right fun h' => by simp [hs.1.abortsLanded] at h').2
  refine hfair.leadsTo hrun .subStep (I := fun s => InAbortLoop [.b, .a] s ∧ s.main = .abortTest)
    (G := fun s => s.main = .stopConvert) (fun s turns hs => ⟨InAbortLoop.ignoresTurns s turns hs.1, hs.2⟩)
    (fun _ _ => id) (fun s hs => hs.1.subStep_enabled) (fun s t hs hstep => ?_)
    (fun s t hs hhappens hstep => leave hs (subStep_of_happens hhappens hstep)) ⟨h, hm⟩
  rcases hs.1.step_cases hstep with ⟨ht, htm⟩ | ⟨-, hsub⟩
  · exact .inl ⟨ht, htm.trans hs.2⟩
  · exact .inr (leave hs hsub)

/-- The four legs: the landings of A and B, the request, the test. -/
theorem InAbortLoop.ends (hrun : IsRun σ) (hfair : WeaklyFair σ) {n : Nat} (h : InAbortLoop [] (σ n)) :
    ∃ k, n ≤ k ∧ (σ k).main = .stopConvert := by
  obtain ⟨k₁, hk₁, h₁⟩ := h.leadsTo_landed hrun hfair .a
  obtain ⟨k₂, hk₂, h₂⟩ := h₁.leadsTo_landed hrun hfair .b
  obtain ⟨k₃, hk₃, h₃, hm⟩ := h₂.leadsTo_abortTest hrun hfair
  obtain ⟨k₄, hk₄, h₄⟩ := h₃.leadsTo_stopConvert hrun hfair hm
  exact ⟨k₄, by omega, h₄⟩

end

/-! ## One pass of the loop -/

section
variable {s : State}

theorem mainTurn_abortTest (hm : s.main = .abortTest) (hsnap : s.drain.cb.isSnap = false) :
    mainTurn s = .next (s.goto (if abortsLanded s then .stopConvert else .abortRequest)) := by
  rw [mainTurn, if_pos ((mainMayRun_iff s).2 hsnap), subStep, hm]

theorem mainTurn_abortRequest (hm : s.main = .abortRequest) (hsnap : s.drain.cb.isSnap = false) :
    mainTurn s = .next ((requestAborts s).goto .abortTest) := by
  rw [mainTurn, if_pos ((mainMayRun_iff s).2 hsnap), subStep, hm]

theorem abortsLanded_iff (s : State) :
    abortsLanded s = true ↔
      (s.chA.busy = false ∧ s.chA.abortReq = false) ∧ s.chB.busy = false ∧ s.chB.abortReq = false := by
  rw [abortsLanded, Bool.and_eq_true, chanAIdle_iff, chanBIdle_iff]

/-- Channel A completes its pass between the request and the landing (SA7): Channel B, triggered after the request, is
busy without one. -/
theorem abortLoop_goes_on {w : Cell} {rest : List Cell} (hm : s.main = .abortRequest)
    (hsnap : s.drain.cb.isSnap = false) (hA : s.chA = { busy := true, idx := 2, abortReq := false })
    (hB : s.chB = { busy := false, abortReq := false }) (hf : s.adc.fifo = w :: rest) :
    ∃ t, andThen (mainTurn s) (fun u => andThen (execAll [.dmaAXfer, .dmaAbortLand .a] u) mainTurn) = .next t ∧
      t.main = .abortRequest ∧ t.chB = { busy := true, abortReq := false } := by
  have hrequest : mainTurn s =
      .next { s with chA := { busy := true, idx := 2, abortReq := true }, main := .abortTest } := by
    rw [mainTurn_abortRequest hm hsnap]
    simp [requestAborts, State.goto, hA, hB]
  have hcell : (2 : Fin 4) < 3 := by decide
  rw [hrequest, andThen_next, execAll,
    exec_dmaAXfer_of_ready (w := w) (rest := rest) rfl (by exact hcell) (by exact hf), andThen_next,
    transferA_eq (w := w) (rest := rest) (by exact hf), execAll]
  have hland (u : State) (hu : u.chA.abortReq = true) : exec (.dmaAbortLand .a) u = .next (landAbort .a u) :=
    guarded_of_true (g := abortRequested .a u) hu _ _
  rw [hland _ rfl, andThen_next, execAll, andThen_next, mainTurn_abortTest rfl (by exact hsnap)]
  exact ⟨_, rfl, by simp [landAbort, abortsLanded, chanBIdle], by simp [landAbort, hB]⟩

end

/-- Settles O40: the test and the race by the sub-steps, the landings and the end of the loop by fairness. -/
theorem abortLoopGoesOnUntilBothAreIdle : Obligations.AbortLoopGoesOnUntilBothAreIdle := by
  unfold Obligations.AbortLoopGoesOnUntilBothAreIdle
  refine ⟨fun s hm hsnap => ⟨fun h => ?_, fun h => ?_⟩,
    fun s w rest hm hsnap hA hB hf => abortLoop_goes_on hm hsnap hA hB hf, fun σ hrun hfair n => ⟨?_, ?_, ?_⟩⟩
  · rw [mainTurn_abortTest hm hsnap, if_pos ((abortsLanded_iff s).2 h)]
    rfl
  · rw [mainTurn_abortTest hm hsnap, if_neg (mt (abortsLanded_iff s).1 h)]
    rfl
  · intro hreq
    obtain ⟨k, hk, h⟩ := abort_lands hrun hfair .a hreq
    exact ⟨k, hk, (chanAIdle_iff _).1 h⟩
  · intro hreq
    obtain ⟨k, hk, h⟩ := abort_lands hrun hfair .b hreq
    exact ⟨k, hk, (chanBIdle_iff _).1 h⟩
  · intro hm hoff hA hB
    obtain ⟨htarget, hcb⟩ := (drainOff_iff _).1 hoff
    refine InAbortLoop.ends hrun hfair ⟨hm, ?_, ⟨hA, hB⟩, nofun⟩
    rw [← htarget, ← hcb]

end Sys2Proof.Machine

/-! # The events flag and the input pins (42_coordinator.md R181, 43_digital_io.md R217)

SET_EVENTS_ENABLED has no guard. The guard of DI_CHANGE looks at the eight bits of its operand; R217 speaks of every
position at or above `N_DI`, and the two agree because a byte has no bit at or above eight. -/

namespace Sys2Proof.Machine

/-- The model's test of an input byte, as R217 words it. -/
theorem inputBitsExist_iff (nDi : Nat) (v : Byte) :
    inputBitsExist nDi v = true ↔ ∀ k, nDi ≤ k → v.getLsbD k = false := by
  simp only [inputBitsExist, List.all_eq_true, List.mem_range, Bool.or_eq_true, Bool.not_eq_true',
    decide_eq_true_eq]
  refine ⟨fun h k hk => ?_, fun h k _ => ?_⟩
  · rcases Nat.lt_or_ge k 8 with hlt | hge
    · exact (h k hlt).resolve_right (Nat.not_lt.2 hk)
    · exact BitVec.getLsbD_of_ge v k hge
  · exact (Nat.lt_or_ge k nDi).symm.imp_left (h k)

theorem exec_setEventsEnabled (b : Bool) (s : State) :
    exec (.setEventsEnabled b) s = .next { s with eventsEnabled := b } := rfl

theorem exec_diChange_of_inputs {s : State} {v : Byte} (h : inputBitsExist s.cfg.nDi v = true) :
    exec (.diChange v) s = .next { s with diPins := v } :=
  guarded_of_true h (fun t => { t with diPins := v }) s

/-- Settles O24: the flag has no guard, and the operand's bits are R217's condition. -/
theorem flagAndInputsChangeAlone : Obligations.FlagAndInputsChangeAlone := by
  unfold Obligations.FlagAndInputsChangeAlone
  refine ⟨fun s b => exec_setEventsEnabled b s, fun s v hv => ?_⟩
  have hinputs : inputBitsExist s.cfg.nDi v = true := (inputBitsExist_iff s.cfg.nDi v).2 hv
  exact exec_diChange_of_inputs hinputs

end Sys2Proof.Machine

/-! # The byte frame of the register map (20_memory.md R52, R65)

Every byte of the block is a byte of one field, so a step leaves the bytes outside the fields it stores to. -/

namespace Sys2Proof.Machine

/-- Byte `i` of a field is byte `i` from the field's offset. -/
theorem memByte_field {s : State} {k : Field} (hk : k ∈ fieldsOf s.cfg) {i : Nat} (hi : i < fieldWidth k) :
    memByte s (fieldOffset k + i) = (fieldValue s k).bytes[i]? := by
  obtain ⟨before, after, hs, hlen⟩ := byteView_split hk
  have hi' : i < (fieldValue s k).bytes.length := by rwa [fieldValue_bytes_length]
  rw [memByte, hs, ← hlen, List.append_assoc, List.getElem?_append_right (Nat.le_add_right ..),
    Nat.add_sub_cancel_left, List.getElem?_append_left hi']

/-- The fields are packed without a gap (R52). -/
theorem exists_field_of_lt_length {s : State} {a : Nat} (ha : a < (byteView s).length) :
    ∃ k ∈ fieldsOf s.cfg, fieldOffset k ≤ a ∧ a < fieldOffset k + fieldWidth k := by
  have hpacked : ∀ hasPwm : Bool, ∀ a < (if hasPwm then 37 else 28),
      ∃ k ∈ ([.diState, .doSet, .doClear, .doToggle, .doState, .ptStart, .ptStop, .analog] ++
        (if hasPwm then [.pwmCfg, .pwmStop] else []) : List Field),
        fieldOffset k ≤ a ∧ a < fieldOffset k + fieldWidth k := by decide
  exact hpacked s.cfg.hasPwm a (byteView_length s ▸ ha)

/-- A byte outside the fields `ks` is kept where every other field is. -/
theorem memByte_of_fieldsKept {s t : State} {ks : List Field} {a : Nat} (hcfg : t.cfg = s.cfg)
    (hkept : ∀ k, k ∉ ks → fieldValue t k = fieldValue s k)
    (ha : ∀ k ∈ ks, a < fieldOffset k ∨ fieldOffset k + fieldWidth k ≤ a) : memByte t a = memByte s a := by
  have hlen : (byteView t).length = (byteView s).length := by rw [byteView_length, byteView_length, hcfg]
  rcases Nat.lt_or_ge a (byteView s).length with hin | hout
  · obtain ⟨k, hk, hle, hlt⟩ := exists_field_of_lt_length hin
    have hnotin : k ∉ ks := fun hmem => by rcases ha k hmem with h | h <;> omega
    obtain ⟨i, rfl⟩ := Nat.exists_eq_add_of_le hle
    have hi : i < fieldWidth k := Nat.lt_of_add_lt_add_left hlt
    rw [memByte_field (hcfg ▸ hk) hi, memByte_field hk hi, hkept k hnotin]
  · rw [memByte, memByte, List.getElem?_eq_none hout, List.getElem?_eq_none (hlen ▸ hout)]

end Sys2Proof.Machine

/-! # Digital inputs and outputs (43_digital_io.md R200 to R214, R218)

With the main loop free a write to an output field is its store, then the acknowledgement; a read and a write to a
read-only field are one reply. DI_EDGE is its effect or is held. -/

namespace Sys2Proof.Machine

/-! ## What each output write stores -/

section
variable (v : Byte) (s : State) (k : Field)

theorem fieldValue_doSetStore :
    fieldValue (doSetStore v s) k =
      if k = .doSet then .byte v else if k = .doState then .byte (s.doPins ||| v) else fieldValue s k := by
  cases k <;> rfl

theorem fieldValue_doClearStore :
    fieldValue (doClearStore v s) k =
      if k = .doClear then .byte v else if k = .doState then .byte (s.doPins &&& ~~~v) else fieldValue s k := by
  cases k <;> rfl

theorem fieldValue_doToggleStore :
    fieldValue (doToggleStore v s) k =
      if k = .doToggle then .byte v else if k = .doState then .byte (s.doPins ^^^ v) else fieldValue s k := by
  cases k <;> rfl

theorem fieldValue_doStateStore :
    fieldValue (doStateStore v s) k = if k = .doState then .byte v else fieldValue s k := by
  cases k <;> rfl

end

/-! ## The frame and the acknowledgement of an output write -/

section
variable {s t : State} {i : Instr} {k : Field}

/-- A store to a field of one byte and to the pins keeps every other byte of the block (R65). -/
theorem memByte_of_outputStore {a : Nat} (hcfg : t.cfg = s.cfg) (hwidth : fieldWidth k = 1)
    (hkept : ∀ j, j ≠ k → j ≠ .doState → fieldValue t j = fieldValue s j)
    (hfield : a ≠ fieldOffset k) (hpins : a ≠ fieldOffset .doState) : memByte t a = memByte s a := by
  have houtside {j : Field} (hw : fieldWidth j = 1) (hj : a ≠ fieldOffset j) :
      a < fieldOffset j ∨ fieldOffset j + fieldWidth j ≤ a := by omega
  refine memByte_of_fieldsKept (ks := [k, .doState]) hcfg (fun j hj => ?_) (fun j hj => ?_)
  · obtain ⟨hjk, hjstate⟩ : j ≠ k ∧ j ≠ .doState := by simpa using hj
    exact hkept j hjk hjstate
  · obtain rfl | rfl : j = k ∨ j = .doState := by simpa using hj
    · exact houtside hwidth hfield
    · exact houtside rfl hpins

/-- The main loop's turn on an acknowledgement appends it and ends the operation. -/
theorem mainTurn_ack (hmain : s.main = .ack k) (hsnap : s.drain.cb.isSnap = false) :
    mainTurn s = .next { s with main := .idle, out := s.out ++ [.writeAck k] } := by
  rw [mainTurn, if_pos ((mainMayRun_iff s).2 hsnap), subStep, hmain]
  rfl

/-- An operation whose first sub-step leaves only the acknowledgement to do. -/
theorem execThenTurns_ack (hexec : exec i s = .next t) (hmain : t.main = .ack k) (hsnap : t.drain.cb.isSnap = false) :
    execThenTurns i 1 s = .next { t with main := .idle, out := t.out ++ [.writeAck k] } := by
  rw [execThenTurns, hexec, andThen_next, mainTurns, mainTurn_ack hmain hsnap]
  rfl

/-- An operation leads to at most one state, so a fact about every state after it is one about that state. -/
theorem forall_next_of_exec {P : State → Prop} (hexec : exec i s = .next t) (h : P t) :
    ∀ u, exec i s = .next u → P u := by
  intro u hu
  obtain rfl : t = u := by simpa [hexec] using hu
  exact h

end

/-! ## Operations of one reply -/

section
variable {s : State}

theorem readField_of_free (hfree : mainFree s = true) (k : Field) :
    readField k s = .next { s with out := s.out ++ [.readReply k (fieldValue s k)] } :=
  guarded_of_true hfree _ _

theorem exec_wrDiState_of_free (hfree : mainFree s = true) (v : Byte) :
    exec (.wrDiState v) s = .next { s with out := s.out ++ [.writeError .diState .readOnly] } :=
  guarded_of_true hfree (fun t => t.raise .diState .readOnly) s

theorem exec_wrAnalog_of_free (hfree : mainFree s = true) (v : Analog) :
    exec (.wrAnalog v) s = .next { s with out := s.out ++ [.writeError .analog .readOnly] } :=
  guarded_of_true hfree (fun t => t.raise .analog .readOnly) s

end

/-! ## The guard of DI_EDGE (R218) -/

theorem edgeEnabled_iff (s : State) :
    edgeEnabled s = true ↔ s.diIrqEnabled = true ∧ s.diPins ≠ s.regs.diState ∧ s.drain.cb = .noCb := by
  simp only [edgeEnabled, Bool.and_eq_true, decide_eq_true_eq, irqFree_iff, and_assoc]

/-! ## The obligations -/

/-- Settles O14: each write by its store, the acknowledgement that follows and the fields it keeps. -/
theorem outputWritesDriveThePins : Obligations.OutputWritesDriveThePins := by
  unfold Obligations.OutputWritesDriveThePins
  intro s v hidle hsnap
  have hfree : mainFree s = true := (mainFree_iff s).2 ⟨hidle, hsnap⟩
  have hset : exec (.wrDoSet v) s = .next (doSetStore v s) := guarded_of_true hfree _ _
  have hclear : exec (.wrDoClear v) s = .next (doClearStore v s) := guarded_of_true hfree _ _
  have htoggle : exec (.wrDoToggle v) s = .next (doToggleStore v s) := guarded_of_true hfree _ _
  have hstate : exec (.wrDoState v) s = .next (doStateStore v s) := guarded_of_true hfree _ _
  refine ⟨⟨hset, execThenTurns_ack hset rfl hsnap, forall_next_of_exec hset fun a hfield hpins => ?_⟩,
    ⟨hclear, execThenTurns_ack hclear rfl hsnap, forall_next_of_exec hclear fun a hfield hpins => ?_⟩,
    ⟨htoggle, execThenTurns_ack htoggle rfl hsnap, forall_next_of_exec htoggle fun a hfield hpins => ?_⟩,
    ⟨hstate, execThenTurns_ack hstate rfl hsnap, forall_next_of_exec hstate fun a hpins => ?_⟩⟩
  · exact memByte_of_outputStore (k := .doSet) rfl rfl
      (fun j hj hs => by rw [fieldValue_doSetStore, if_neg hj, if_neg hs]) hfield hpins
  · exact memByte_of_outputStore (k := .doClear) rfl rfl
      (fun j hj hs => by rw [fieldValue_doClearStore, if_neg hj, if_neg hs]) hfield hpins
  · exact memByte_of_outputStore (k := .doToggle) rfl rfl
      (fun j hj hs => by rw [fieldValue_doToggleStore, if_neg hj, if_neg hs]) hfield hpins
  · exact memByte_of_outputStore (k := .doState) rfl rfl
      (fun j hj _ => by rw [fieldValue_doStateStore, if_neg hj]) hpins hpins

/-- Settles O12: all eight are the read of one field. -/
theorem readsReplyTheField : Obligations.ReadsReplyTheField := by
  unfold Obligations.ReadsReplyTheField
  intro s hidle hsnap
  have hread := readField_of_free ((mainFree_iff s).2 ⟨hidle, hsnap⟩)
  exact ⟨hread .diState, hread .doSet, hread .doClear, hread .doToggle, hread .doState, hread .ptStart, hread .ptStop,
    hread .analog⟩

/-- Settles O15. -/
theorem readOnlyWritesAreAnsweredWithAnError : Obligations.ReadOnlyWritesAreAnsweredWithAnError := by
  unfold Obligations.ReadOnlyWritesAreAnsweredWithAnError
  intro s v a hidle hsnap
  have hfree : mainFree s = true := (mainFree_iff s).2 ⟨hidle, hsnap⟩
  exact ⟨exec_wrDiState_of_free hfree v, exec_wrAnalog_of_free hfree a⟩

/-- Settles O25: DI_EDGE happens exactly when none of the three ways to be held is given. -/
theorem inputEdgeLatchesTheByte : Obligations.InputEdgeLatchesTheByte := by
  unfold Obligations.InputEdgeLatchesTheByte
  intro s
  refine ⟨fun hirq hdiff hcb => guarded_of_true ((edgeEnabled_iff s).2 ⟨hirq, hdiff, hcb⟩) _ _, fun hheld => ?_⟩
  have hoff : edgeEnabled s = false := by
    rw [← Bool.not_eq_true, edgeEnabled_iff]
    rintro ⟨hirq, hdiff, hcb⟩
    rcases hheld with h | h | h
    · simp [hirq] at h
    · exact hdiff h
    · exact h hcb
  exact guarded_of_false hoff _ _

end Sys2Proof.Machine

/-! # The PWM configuration fields (44_pwm.md R221 to R225)

With PWM and the main loop free a write to a PWM field is its store, then the sub-steps its store leaves: the generator
runs or the frequency is answered with an error; the generator stops and the write is acknowledged. -/

namespace Sys2Proof.Machine

/-! ## The clamped duty and the generator (R222 to R224) -/

theorem clampDuty_toNat (d : Word) : (clampDuty d).toNat = min d.toNat 100 := by
  have hle : d ≤ 100 ↔ d.toNat ≤ 100 := Iff.rfl
  unfold clampDuty
  split
  case isTrue h => exact (Nat.min_eq_left (hle.1 h)).symm
  case isFalse h => exact (Nat.min_eq_right (Nat.le_of_not_le (mt hle.2 h))).symm

theorem pwmLevel_clampDuty (top : Nat) (d : Word) : pwmLevel top (clampDuty d) = top * min d.toNat 100 / 100 := by
  rw [pwmLevel, clampDuty_toNat]

/-! ## The sub-steps of the two writes -/

section
variable {s : State}

/-- With PWM and the main loop free the first sub-step of a PWM operation is its effect. -/
theorem pwmOnly_guarded_of_free (hpwm : s.cfg.hasPwm = true) (hfree : mainFree s = true) (f : State → State) :
    pwmOnly s (guarded (mainFree s) f s) = .next (f s) := by
  rw [pwmOnly, if_pos hpwm, guarded_of_true hfree]

theorem exec_wrPwmCfg_of_free (hpwm : s.cfg.hasPwm = true) (hfree : mainFree s = true) (p : PwmCfg) :
    exec (.wrPwmCfg p) s = .next (pwmCfgStore p s) :=
  pwmOnly_guarded_of_free hpwm hfree (pwmCfgStore p)

theorem exec_wrPwmStop_of_free (hpwm : s.cfg.hasPwm = true) (hfree : mainFree s = true) (v : Byte) :
    exec (.wrPwmStop v) s = .next (pwmStopStore v s) :=
  pwmOnly_guarded_of_free hpwm hfree (pwmStopStore v)

theorem mainTurn_pwmApply {f d : Word} (hmain : s.main = .pwmApply f d) (hsnap : s.drain.cb.isSnap = false) :
    mainTurn s = .next ((pwmApply f d s).goto .idle) := by
  rw [mainTurn, if_pos ((mainMayRun_iff s).2 hsnap), subStep, hmain]

theorem mainTurn_pwmHalt (hmain : s.main = .pwmHalt) (hsnap : s.drain.cb.isSnap = false) :
    mainTurn s = .next ((pwmHalt s).goto (.ack .pwmStop)) := by
  rw [mainTurn, if_pos ((mainMayRun_iff s).2 hsnap), subStep, hmain]

/-- A configuration write is its store, then the generator's answer to the latched frequency and clamped duty. -/
theorem execThenTurns_wrPwmCfg (hpwm : s.cfg.hasPwm = true) (hfree : mainFree s = true) (p : PwmCfg) :
    execThenTurns (.wrPwmCfg p) 1 s =
      .next ((pwmApply p.frequencyHz (clampDuty p.dutyPercent) (pwmCfgStore p s)).goto .idle) := by
  obtain ⟨-, hsnap⟩ := (mainFree_iff s).1 hfree
  rw [execThenTurns, exec_wrPwmCfg_of_free hpwm hfree, andThen_next, mainTurns, mainTurn_pwmApply rfl (by exact hsnap),
    andThen_next, mainTurns]

/-- A stop write is its store, the stop and the acknowledgement. -/
theorem execThenTurns_wrPwmStop (hpwm : s.cfg.hasPwm = true) (hfree : mainFree s = true) (v : Byte) :
    execThenTurns (.wrPwmStop v) 2 s =
      .next (((pwmHalt (pwmStopStore v s)).reply (.writeAck .pwmStop)).goto .idle) := by
  obtain ⟨-, hsnap⟩ := (mainFree_iff s).1 hfree
  rw [execThenTurns, exec_wrPwmStop_of_free hpwm hfree, andThen_next, mainTurns, mainTurn_pwmHalt rfl (by exact hsnap),
    andThen_next, mainTurns, mainTurn_ack rfl (by exact hsnap), andThen_next, mainTurns]
  rfl

end

/-! ## The obligations -/

/-- Settles O44: the store, then the two branches of the generator's sub-step. -/
theorem pwmConfigWriteRunsOrIsRejected : Obligations.PwmConfigWriteRunsOrIsRejected := by
  unfold Obligations.PwmConfigWriteRunsOrIsRejected
  intro s f d hpwm hidle hsnap
  have hfree : mainFree s = true := (mainFree_iff s).2 ⟨hidle, hsnap⟩
  refine ⟨exec_wrPwmCfg_of_free hpwm hfree ⟨f, d⟩, fun hf => ?_, fun hf => ?_⟩
  · rw [execThenTurns_wrPwmCfg hpwm hfree, pwmApply, if_neg hf, pwmLevel_clampDuty, hidle]
    rfl
  · rw [execThenTurns_wrPwmCfg hpwm hfree, pwmApply, if_pos hf, hidle]
    rfl

/-- Settles O46: no sub-step of the write looks at the byte. -/
theorem pwmStopWriteStops : Obligations.PwmStopWriteStops := by
  unfold Obligations.PwmStopWriteStops
  intro s v hpwm hidle hsnap
  have hfree : mainFree s = true := (mainFree_iff s).2 ⟨hidle, hsnap⟩
  refine ⟨exec_wrPwmStop_of_free hpwm hfree v, ?_⟩
  rw [execThenTurns_wrPwmStop hpwm hfree, hidle]
  rfl

end Sys2Proof.Machine

/-! # Contexts that do not nest, and the hand-off queue (60_exceptions.md R253, R254, 70_reset_and_hazards.md R313)

What is held while the interrupt context or the main loop is taken. Then the queue along a run: no step but a DRAIN_PUSH
lengthens it, and a pop takes its head; so with a pop between any two pushes every push finds it empty. -/

namespace Sys2Proof.Machine

section
variable {s t : State} {i : Instr}

/-! ## What a taken context holds (R253, R254) -/

theorem irqFree_eq_false (hcb : s.drain.cb ≠ .noCb) : irqFree s = false :=
  Bool.eq_false_iff.2 (mt (irqFree_iff s).1 hcb)

theorem exec_ptFire_of_callback (hcb : s.drain.cb ≠ .noCb) (m : Byte) : exec (.ptFire m) s = .next s :=
  guarded_of_false (by rw [fireEnabled, irqFree_eq_false hcb, Bool.and_false]) _ _

theorem exec_ptEnd_of_callback (hcb : s.drain.cb ≠ .noCb) (m : Byte) : exec (.ptEnd m) s = .next s :=
  guarded_of_false (by rw [endEnabled, irqFree_eq_false hcb, Bool.and_false]) _ _

theorem exec_diEdge_of_callback (hcb : s.drain.cb ≠ .noCb) : exec .diEdge s = .next s :=
  guarded_of_false (by rw [edgeEnabled, irqFree_eq_false hcb, Bool.and_false]) _ _

theorem exec_drainFire_of_callback (hcb : s.drain.cb ≠ .noCb) : exec .drainFire s = .next s :=
  guarded_of_false (by rw [drainFireEnabled, irqFree_eq_false hcb, Bool.and_false]) _ _

theorem mainTurn_of_snap (hsnap : s.drain.cb.isSnap = true) : mainTurn s = .next s := by
  simp [mainTurn, mainMayRun, hsnap]

theorem mainFree_eq_false (h : s.main ≠ .idle ∨ s.drain.cb.isSnap = true) : mainFree s = false := by
  rw [Bool.eq_false_iff, ne_eq, mainFree_iff]
  rintro ⟨hidle, hsnap⟩
  exact h.elim (· hidle) fun hs => by simp [hsnap] at hs

theorem pwmOnly_of_hasPwm (hpwm : s.cfg.hasPwm = true) (o : Host.Outcome State Fault Refusal) : pwmOnly s o = o :=
  if_pos hpwm

/-- A main-loop operation does not begin while the main loop is not free. -/
theorem exec_of_not_mainFree (hbusy : mainFree s = false) (hctx : contextOf i = .mainLoop)
    (hpwm : i.isPwm = true → s.cfg.hasPwm = true) : exec i s = .next s := by
  have hheld (f : State → State) : guarded (mainFree s) f s = .next s := guarded_of_false hbusy f s
  cases i <;> try cases hctx
  case rdPwmCfg | rdPwmStop | wrPwmCfg | wrPwmStop => exact (pwmOnly_of_hasPwm (hpwm rfl) _).trans (hheld _)
  case configure =>
    rw [exec, execConfigure, hbusy, Bool.false_and, if_neg Bool.false_ne_true]
    exact guarded_of_false rfl _ s
  case update => exact hheld fun u => (popSample u).goto .coordEval
  case wrDiState | wrAnalog => exact hheld fun u => u.raise _ .readOnly
  case rdDiState | rdDoSet | rdDoClear | rdDoToggle | rdDoState | rdPtStart | rdPtStop | rdAnalog =>
    exact hheld fun u => u.replyRead _
  all_goals exact hheld _

/-! ## What a step does to the hand-off queue -/

@[simp] theorem popSample_queue (s : State) : (popSample s).queue = s.queue.tail := by
  cases hq : s.queue with
  | nil => rw [popSample_of_nil hq, hq, List.tail_nil]
  | cons item rest => rw [popSample_of_cons hq, List.tail_cons]

theorem exec_update_of_free (hfree : mainFree s = true) : exec .update s = .next ((popSample s).goto .coordEval) :=
  guarded_of_true hfree (fun u => (popSample u).goto .coordEval) s

theorem drainPushEnabled_iff (s : State) :
    drainPushEnabled s = true ↔ s.drain.cb.isPush = true ∧ s.drain.target ≠ none ∧ s.queue.length < 2 := by
  simp only [drainPushEnabled, Bool.and_eq_true, Option.isSome_iff_ne_none, queueHasRoom_iff, and_assoc]

/-- A DRAIN_PUSH that happens queues its item and returns from the callback. -/
theorem exec_drainPush_of_enabled (hpush : drainPushEnabled s = true) :
    ∃ u item, exec .drainPush s = .next u ∧ u.drain.cb = .noCb ∧ u.queue = s.queue ++ [item] := by
  obtain ⟨hcb, htarget, -⟩ := (drainPushEnabled_iff s).1 hpush
  obtain ⟨target, ht⟩ := Option.ne_none_iff_exists'.1 htarget
  cases hp : s.drain.cb <;> simp only [hp, DrainCb.isPush, Bool.false_eq_true] at hcb
  case push item =>
    have hreturn : drainReturn s =
        { s with queue := s.queue ++ [item], drain := ⟨some (target + s.cfg.drainPeriodUs), .noCb⟩ } := by
      rw [drainReturn, hp, ht]
    refine ⟨drainReturn s, item, guarded_of_true hpush _ _, ?_, ?_⟩ <;> rw [hreturn]

theorem guarded_queue_suffix {g : Bool} {f : State → State} (h : guarded g f s = .next t)
    (hf : (f s).queue <:+ s.queue) : t.queue <:+ s.queue := by
  rcases guarded_next h with ⟨-, rfl⟩ | ⟨-, rfl⟩
  · exact hf
  · exact List.suffix_rfl

/-- No operation but DRAIN_PUSH adds to the queue. -/
theorem exec_queue_suffix (hi : i ≠ .drainPush) (h : exec i s = .next t) : t.queue <:+ s.queue := by
  have hkept {u : State} (hu : u.queue = s.queue) : u.queue <:+ s.queue := hu ▸ List.suffix_rfl
  cases i
  case drainPush => exact absurd rfl hi
  case reset => exact guarded_queue_suffix h List.nil_suffix
  case update =>
    refine guarded_queue_suffix (f := fun u => (popSample u).goto .coordEval) h ?_
    rw [State.goto_queue, popSample_queue]
    exact List.tail_suffix s.queue
  case setEventsEnabled => cases h; exact List.suffix_rfl
  case configure =>
    rw [exec, execConfigure] at h
    split at h
    · cases h
    · exact guarded_queue_suffix h List.suffix_rfl
  case rdPwmCfg | rdPwmStop | wrPwmCfg | wrPwmStop =>
    exact guarded_queue_suffix (pwmOnly_next h).2 List.suffix_rfl
  case rdDiState | rdDoSet | rdDoClear | rdDoToggle | rdDoState | rdPtStart | rdPtStop | rdAnalog =>
    exact guarded_queue_suffix (f := fun u => u.replyRead _) h List.suffix_rfl
  case wrDiState | wrAnalog => exact guarded_queue_suffix (f := fun u => u.raise _ .readOnly) h List.suffix_rfl
  case tickTime delta => exact guarded_queue_suffix (f := fun u => { u with now := u.now + delta }) h List.suffix_rfl
  case diChange v => exact guarded_queue_suffix (f := fun u => { u with diPins := v }) h List.suffix_rfl
  case ptFire => exact guarded_queue_suffix h (hkept (by unfold fireSlot; split <;> rfl))
  case ptEnd =>
    refine guarded_queue_suffix h (hkept ?_)
    unfold endSlot
    split
    · split <;> rfl
    · rfl
  case dmaAXfer =>
    refine guarded_queue_suffix h (hkept ?_)
    unfold transferA
    split
    · dsimp only
      split <;> rfl
    · rfl
  case dmaAbortLand x => exact guarded_queue_suffix h (hkept (by cases x <;> rfl))
  case drainFire => exact guarded_queue_suffix h (hkept (by unfold drainEnter; split <;> rfl))
  all_goals exact guarded_queue_suffix h List.suffix_rfl

/-- No sub-step of the main loop adds to the queue; stopPipeline's fourth empties it. -/
theorem subStep_queue_suffix (h : subStep s = .next t) : t.queue <:+ s.queue := by
  cases hmain : s.main <;> simp only [subStep, hmain, Host.Outcome.next.injEq] at h
  case startSelect =>
    split at h <;> cases h
    exact List.suffix_rfl
  all_goals subst h
  case stopFlush => exact List.nil_suffix
  case ptStartCancel | ptStopCancel | cancelSlots => rw [State.goto_queue, cancelSlot_queue]
  case pwmApply => unfold pwmApply; split <;> exact List.suffix_rfl
  all_goals exact List.suffix_rfl

theorem takesPush_iff (s : State) :
    takesPush s = true ↔ fetch s.sched = .operation .drainPush ∧ drainPushEnabled s = true := by
  simp only [takesPush, Bool.and_eq_true, decide_eq_true_eq]

theorem takesPop_iff (s : State) :
    takesPop s = true ↔ fetch s.sched = .operation .update ∧ mainFree s = true := by
  simp only [takesPop, Bool.and_eq_true, decide_eq_true_eq]

theorem step_of_operation (hi : fetch s.sched = .operation i) : step s = exec i s.advance := by
  rw [step, hi]

/-- A step that is no DRAIN_PUSH adds nothing to the queue. -/
theorem step_queue_suffix (h : step s = .next t) (hpush : takesPush s = false) : t.queue <:+ s.queue := by
  unfold step at h
  split at h
  case h_1 =>
    rcases mainTurn_next h with ⟨-, rfl⟩ | ⟨-, hsub⟩
    · exact List.suffix_rfl
    · exact subStep_queue_suffix (s := s.advance) hsub
  case h_2 i hi =>
    by_cases hdp : i = .drainPush
    · subst hdp
      have hheld : drainPushEnabled s.advance = false :=
        Bool.eq_false_iff.2 fun hen => Bool.eq_false_iff.1 hpush ((takesPush_iff s).2 ⟨hi, hen⟩)
      obtain rfl : s.advance = t := by simpa using (guarded_of_false hheld drainReturn s.advance).symm.trans h
      exact List.suffix_rfl
    · exact exec_queue_suffix (s := s.advance) hdp h
  case h_3 => cases h

/-- A DRAIN_PUSH adds one item. -/
theorem step_queue_of_push (h : step s = .next t) (hpush : takesPush s = true) :
    ∃ item, t.queue = s.queue ++ [item] := by
  obtain ⟨hi, hen⟩ := (takesPush_iff s).1 hpush
  obtain ⟨u, item, hu, -, hq⟩ := exec_drainPush_of_enabled (s := s.advance) hen
  obtain rfl : u = t := by simpa [step_of_operation hi, hu] using h
  exact ⟨item, hq⟩

/-- A popSample takes the oldest item, if there is one. -/
theorem step_queue_of_pop (h : step s = .next t) (hpop : takesPop s = true) : t.queue = s.queue.tail := by
  obtain ⟨hi, hfree⟩ := (takesPop_iff s).1 hpop
  obtain rfl : (popSample s.advance).goto .coordEval = t := by
    simpa [step_of_operation hi, exec_update_of_free (s := s.advance) hfree] using h
  rw [State.goto_queue, popSample_queue, State.advance_queue]

/-! ## A pop between any two pushes (R313) -/

/-- At most one item waits, and none once a popSample has followed the latest DRAIN_PUSH. -/
structure AtMostOneWaits (popped : Bool) (s : State) : Prop where
  length_le : s.queue.length ≤ 1
  empty_of_popped : popped = true → s.queue = []

/-- Every step that meets the assumption of R313 keeps this: a push finds the queue empty, and the pop that must come
before the next push empties it again. -/
theorem AtMostOneWaits.step {popped : Bool} (hs : AtMostOneWaits popped s) (h : step s = .next t)
    (hok : pushAfterPop popped s = true) : AtMostOneWaits (watchPop popped s) t := by
  cases hpush : takesPush s with
  | true =>
    have hpopped : popped = true := by simpa [pushAfterPop, hpush] using hok
    obtain ⟨item, hq⟩ := step_queue_of_push h hpush
    refine ⟨by simp [hq, hs.empty_of_popped hpopped], fun hw => ?_⟩
    simp [watchPop_eq, hpush] at hw
  | false =>
    have hsuffix : t.queue <:+ s.queue := step_queue_suffix h hpush
    refine ⟨hsuffix.length_le.trans hs.length_le, fun hw => ?_⟩
    have hw : popped = true ∨ takesPop s = true := by simpa [watchPop_eq, hpush] using hw
    rcases hw with hpopped | hpop
    · exact List.suffix_nil.1 (hs.empty_of_popped hpopped ▸ hsuffix)
    · rw [step_queue_of_pop h hpop, ← List.length_eq_zero_iff, List.length_tail]
      exact Nat.sub_eq_zero_of_le hs.length_le

/-- Along a run that meets the assumption of R313 from an empty queue, at most one item waits. -/
theorem queue_length_le_one_of_popsBetweenPushes {n : Nat} (hq : s.queue = [])
    (hassume : popsBetweenPushes n true s = true) (hrun : run n s = .next t) : t.queue.length ≤ 1 := by
  obtain ⟨_, ht⟩ := alongRun_induction (Inv := AtMostOneWaits) (fun _ _ _ hstep hok hu => hu.step hstep hok)
    ⟨by simp [hq], fun _ => hq⟩ hassume hrun
  exact ht.length_le

/-- The UPDATE that finds at most one item reports all that waits. -/
theorem exec_update_reports_queue (hfree : mainFree s = true) (hone : s.queue.length ≤ 1) :
    ∃ u, exec .update s = .next u ∧ u.queue = [] ∧
      u.out = s.out ++ s.queue.map fun item => .event .analog item.timestamp (.analog (analogOf item)) := by
  refine ⟨_, exec_update_of_free hfree, ?_⟩
  cases hq : s.queue with
  | nil =>
    rw [popSample_of_nil hq]
    exact ⟨hq, (List.append_nil _).symm⟩
  | cons item rest =>
    obtain rfl : rest = [] := by simpa [hq] using hone
    rw [popSample_of_cons hq]
    exact ⟨rfl, rfl⟩

end

/-! ## The obligation -/

/-- Settles O11: the exclusions by the guards, and R313's consequence from the queue that holds at most one item. -/
theorem contextsDoNotNest : Obligations.ContextsDoNotNest := by
  unfold Obligations.ContextsDoNotNest
  refine ⟨fun s m hcb => ?_, fun s hsnap => mainTurn_of_snap hsnap,
    fun i s hbusy hctx hpwm => exec_of_not_mainFree (mainFree_eq_false hbusy) hctx hpwm,
    fun s t n hq hassume hrun => ?_⟩
  · exact ⟨exec_ptFire_of_callback hcb m, exec_ptEnd_of_callback hcb m, exec_diEdge_of_callback hcb,
      exec_drainFire_of_callback hcb⟩
  · have hone : t.queue.length ≤ 1 := queue_length_le_one_of_popsBetweenPushes hq hassume hrun
    refine ⟨hone, fun hcb htarget => ?_, fun hidle hsnap => ?_⟩
    · obtain ⟨u, -, hu, hret, -⟩ :=
        exec_drainPush_of_enabled ((drainPushEnabled_iff t).2 ⟨hcb, htarget, Nat.lt_succ_of_le hone⟩)
      exact ⟨u, hu, hret⟩
    · exact exec_update_reports_queue ((mainFree_iff t).2 ⟨hidle, hsnap⟩) hone

end Sys2Proof.Machine

/-! # RESET (70_reset_and_hazards.md R280)

The slot pool is cancelled slot by slot; the PWM fields and the generator are cleared only in a variant with PWM. -/

namespace Sys2Proof.Machine

theorem exec_reset_of_free {s : State} (hfree : mainFree s = true) : exec .reset s = .next (resetEngine s) :=
  guarded_of_true hfree _ _

@[simp] theorem slot_resetEngine (s : State) (m : Byte) : (resetEngine s).slot m = (s.slot m).cancelled :=
  Vector.getElem_map ..

/-- The register map after RESET, field by field. -/
theorem cleared_eq (hasPwm : Bool) (r : RegMap) :
    r.cleared hasPwm =
      { RegMap.zero with
        pwmCfg := if hasPwm then ⟨0, 0⟩ else r.pwmCfg
        pwmStop := if hasPwm then 0 else r.pwmStop } := by
  cases hasPwm <;> rfl

/-- Settles O42: the effect of RESET, slot by slot and with its register map written out. -/
theorem resetRestoresTheInitialState : Obligations.ResetRestoresTheInitialState := by
  unfold Obligations.ResetRestoresTheInitialState
  intro s hidle hsnap
  refine ⟨resetEngine s, exec_reset_of_free ((mainFree_iff s).2 ⟨hidle, hsnap⟩), slot_resetEngine s, ?_⟩
  rw [resetEngine, cleared_eq]
  rfl

end Sys2Proof.Machine

/-! # Decoder and encoder (30_encoding.md sections 1, 2, 4 and 5)

A selector is its class, access bit and index (R84); an operand is decoded from exactly its bytes (R83, R89). So a frame
decodes to an operation exactly when its selector and its operand bytes are that operation's. -/

namespace Sys2Proof.Machine

/-! ## Selectors (R84) -/

/-- A selector, put together from its three parts. -/
theorem selector_eq_of_parts (sel : BitVec 12) :
    sel = BitVec.ofNat 12 (selClass sel * 512 + (selAcc sel).toNat * 256 + selIdx sel) := by
  have hlt : sel.toNat < 4096 := sel.isLt
  have hacc : (selAcc sel).toNat = sel.toNat / 256 % 2 := by
    rw [selAcc, BitVec.getLsbD, Nat.testBit_eq_decide_div_mod_eq]
    rcases Nat.mod_two_eq_zero_or_one (sel.toNat / 2 ^ 8) with h | h <;> rw [h] <;> exact h.symm
  apply BitVec.eq_of_toNat_eq
  simp only [selClass, selIdx, hacc, BitVec.extractLsb'_toNat, BitVec.toNat_ofNat, Nat.shiftRight_eq_div_pow]
  omega

/-- The selector's own two bytes are read back as it, bits 15 to 12 being zero. -/
theorem decode_selBytes_append (sel : BitVec 12) (ops : List Byte) :
    decode (selBytes sel ++ ops) = decodeSelector sel ops := by
  have hlt : sel.toNat < 4096 := sel.isLt
  have hhigh : ((sel >>> 8).setWidth 8 : Byte) >>> 4 = 0 := by
    apply BitVec.eq_of_toNat_eq
    simp [Nat.shiftRight_eq_div_pow]
    omega
  have hsel : (((sel >>> 8).setWidth 8 : Byte) ++ (sel.setWidth 8 : Byte)).setWidth 12 = sel := by
    apply BitVec.eq_of_getLsbD_eq
    intro i hi
    simp only [BitVec.getLsbD_setWidth, BitVec.getLsbD_append, BitVec.getLsbD_ushiftRight]
    grind
  simp only [selBytes, List.cons_append, List.nil_append, decode, hhigh, if_true, hsel]

/-- A frame that is decoded begins with the two bytes of a selector. -/
theorem exists_selBytes_of_decode {frame : List Byte} {i : Instr} (h : decode frame = .ok i) :
    ∃ sel ops, frame = selBytes sel ++ ops := by
  unfold decode at h
  split at h
  case h_2 => cases h
  case h_1 b0 b1 ops =>
    split at h
    case isFalse => cases h
    case isTrue hb1 =>
      have hb1 : b1.toNat / 16 = 0 := by simpa [Nat.shiftRight_eq_div_pow] using congrArg BitVec.toNat hb1
      have hpair : (b1 ++ b0).toNat = b1.toNat * 256 + b0.toNat := by
        rw [BitVec.toNat_append, ← Nat.shiftLeft_add_eq_or_of_lt b0.isLt, Nat.shiftLeft_eq]
      have hb0 := b0.isLt
      refine ⟨(b1 ++ b0).setWidth 12, ops, ?_⟩
      have hlow : ((b1 ++ b0).setWidth 12).setWidth 8 = b0 := by
        apply BitVec.eq_of_toNat_eq
        simp only [BitVec.toNat_setWidth, hpair]
        omega
      have hhigh : (((b1 ++ b0).setWidth 12) >>> 8).setWidth 8 = b1 := by
        apply BitVec.eq_of_toNat_eq
        simp only [BitVec.toNat_setWidth, BitVec.toNat_ushiftRight, Nat.shiftRight_eq_div_pow, hpair]
        omega
      rw [selBytes, hlow, hhigh]
      rfl

/-! ## Operands: decoded from their bytes and from nothing else (R83, R89) -/

section
variable {i j : Instr} {ops : List Byte}

theorem operand0_iff : operand0 j ops = .ok i ↔ j = i ∧ [] = ops := by
  unfold operand0
  split <;> simp_all

theorem operand1_iff {f : Byte → Instr} : operand1 f ops = .ok i ↔ ∃ b, f b = i ∧ [b] = ops := by
  constructor
  · unfold operand1
    split
    case h_1 b => exact fun h => ⟨b, Except.ok.inj h, rfl⟩
    case h_2 => exact nofun
  · rintro ⟨b, rfl, rfl⟩
    rfl

theorem operand2_iff {f : Cell → Instr} : operand2 f ops = .ok i ↔ ∃ w, f w = i ∧ bytes2 w = ops := by
  constructor
  · unfold operand2
    split
    case h_1 b0 b1 => exact fun h => ⟨_, Except.ok.inj h, bytes2_u16Le b0 b1⟩
    case h_2 => exact nofun
  · rintro ⟨w, rfl, rfl⟩
    rw [bytes2, operand2, u16Le_bytes]

theorem operandTime_iff {f : Time → Instr} : operandTime f ops = .ok i ↔ ∃ x, f x = i ∧ bytes8 x = ops := by
  constructor
  · unfold operandTime
    split
    case h_1 b0 b1 b2 b3 b4 b5 b6 b7 => exact fun h => ⟨_, Except.ok.inj h, bytes8_u64Le b0 b1 b2 b3 b4 b5 b6 b7⟩
    case h_2 => exact nofun
  · rintro ⟨x, rfl, rfl⟩
    rw [bytes8, operandTime, u64Le_bytes]

theorem operandAnalog_iff {f : Analog → Instr} : operandAnalog f ops = .ok i ↔ ∃ v, f v = i ∧ v.bytes = ops := by
  constructor
  · unfold operandAnalog
    split
    case h_1 => exact fun h => ⟨_, Except.ok.inj h, by simp only [Analog.bytes, bytes2_u16Le]; rfl⟩
    case h_2 => exact nofun
  · rintro ⟨v, rfl, rfl⟩
    simp only [Analog.bytes, bytes2, List.cons_append, List.nil_append, operandAnalog, u16Le_bytes]

theorem operandPwmCfg_iff {f : PwmCfg → Instr} : operandPwmCfg f ops = .ok i ↔ ∃ p, f p = i ∧ p.bytes = ops := by
  constructor
  · unfold operandPwmCfg
    split
    case h_1 => exact fun h => ⟨_, Except.ok.inj h, by simp only [PwmCfg.bytes, bytes4_u32Le]; rfl⟩
    case h_2 => exact nofun
  · rintro ⟨p, rfl, rfl⟩
    simp only [PwmCfg.bytes, bytes4, List.cons_append, List.nil_append, operandPwmCfg, u32Le_bytes]

theorem operandPtStart_iff {f : PtStart → Instr} : operandPtStart f ops = .ok i ↔ ∃ p, f p = i ∧ p.bytes = ops := by
  constructor
  · unfold operandPtStart
    split
    case h_1 => exact fun h => ⟨_, Except.ok.inj h, by simp only [PtStart.bytes, bytes4_u32Le]; rfl⟩
    case h_2 => exact nofun
  · rintro ⟨p, rfl, rfl⟩
    simp only [PtStart.bytes, bytes4, List.cons_append, List.nil_append, operandPtStart, u32Le_bytes]

theorem operandBool_iff {f : Bool → Instr} :
    operandBool f ops = .ok i ↔ ∃ b, f b = i ∧ [if b then 1 else 0] = ops := by
  constructor
  · unfold operandBool
    split
    case h_1 b =>
      intro h
      split at h
      case isTrue hb => exact ⟨false, Except.ok.inj h, by rw [hb]; rfl⟩
      case isFalse =>
        split at h
        case isTrue hb => exact ⟨true, Except.ok.inj h, by rw [hb]; rfl⟩
        case isFalse => cases h
    case h_2 => exact nofun
  · rintro ⟨b, rfl, rfl⟩
    cases b <;> rfl

theorem operandChannel_iff {f : Channel → Instr} :
    operandChannel f ops = .ok i ↔ (f .a = i ∧ [0] = ops) ∨ (f .b = i ∧ [1] = ops) := by
  constructor
  · unfold operandChannel
    split
    case h_1 b =>
      intro h
      split at h
      case isTrue hb => exact .inl ⟨Except.ok.inj h, by rw [hb]⟩
      case isFalse =>
        split at h
        case isTrue hb => exact .inr ⟨Except.ok.inj h, by rw [hb]⟩
        case isFalse => cases h
    case h_2 => exact nofun
  · rintro (⟨rfl, rfl⟩ | ⟨rfl, rfl⟩) <;> rfl

end

/-! ## The operation map (R95) -/

/-- One operation for each row of the operation table. -/
def tableRows : List Instr :=
  [.rdDiState, .rdDoSet, .rdDoClear, .rdDoToggle, .rdDoState, .rdPtStart, .rdPtStop, .rdAnalog, .rdPwmCfg, .rdPwmStop,
   .wrDiState 0, .wrDoSet 0, .wrDoClear 0, .wrDoToggle 0, .wrDoState 0, .wrPtStart ⟨0, 0, 0, 0⟩, .wrPtStop 0,
   .wrAnalog ⟨0, 0, 0⟩, .wrPwmCfg ⟨0, 0⟩, .wrPwmStop 0, .reset, .update, .setEventsEnabled false, .configure,
   .tickTime 0, .ptFire 0, .ptEnd 0, .adcConvert 0, .dmaAXfer, .dmaBXfer, .dmaAbortLand .a, .drainFire, .drainRead,
   .drainPush, .diChange 0, .diEdge]

/-- A selector is some operation's, or refused by name. -/
theorem decodeSelector_assigned_or_refused (sel : BitVec 12) (ops : List Byte) :
    (∃ i : Instr, i.selector = sel) ∨ decodeSelector sel ops = .error (.unassigned sel) := by
  have assigned {c n : Nat} {a : Bool} (hc : selClass sel = c) (ha : selAcc sel = a) (hn : selIdx sel = n)
      (hrow : BitVec.ofNat 12 (c * 512 + a.toNat * 256 + n) ∈ tableRows.map Instr.selector) :
      ∃ i : Instr, i.selector = sel := by
    subst hc ha hn
    obtain ⟨i, -, hi⟩ := List.mem_map.1 hrow
    exact ⟨i, hi.trans (selector_eq_of_parts sel).symm⟩
  unfold decodeSelector
  split
  case h_5 => exact .inr rfl
  all_goals
    split <;> first
      | exact .inl (assigned ‹_› ‹_› ‹_› (by decide))
      | exact .inr rfl

/-- The operation map is one-to-one: the selector and the operand bytes it decodes are the operation's own. -/
theorem decodeSelector_iff {sel : BitVec 12} {ops : List Byte} {i : Instr} :
    decodeSelector sel ops = .ok i ↔ i.selector = sel ∧ i.operandBytes = ops := by
  constructor
  · intro h
    rcases decodeSelector_assigned_or_refused sel ops with ⟨j, rfl⟩ | hrefused
    case inr => rw [hrefused] at h; cases h
    cases j <;> dsimp only [Instr.selector] at h
    case wrDiState | wrDoSet | wrDoClear | wrDoToggle | wrDoState | wrPtStop | wrPwmStop | ptFire | ptEnd | diChange =>
      obtain ⟨b, rfl, rfl⟩ := operand1_iff.1 h
      exact ⟨rfl, rfl⟩
    case wrPtStart => obtain ⟨p, rfl, rfl⟩ := operandPtStart_iff.1 h; exact ⟨rfl, rfl⟩
    case wrAnalog => obtain ⟨v, rfl, rfl⟩ := operandAnalog_iff.1 h; exact ⟨rfl, rfl⟩
    case wrPwmCfg => obtain ⟨p, rfl, rfl⟩ := operandPwmCfg_iff.1 h; exact ⟨rfl, rfl⟩
    case setEventsEnabled => obtain ⟨b, rfl, rfl⟩ := operandBool_iff.1 h; exact ⟨rfl, rfl⟩
    case tickTime => obtain ⟨d, rfl, rfl⟩ := operandTime_iff.1 h; exact ⟨rfl, rfl⟩
    case adcConvert => obtain ⟨w, rfl, rfl⟩ := operand2_iff.1 h; exact ⟨rfl, rfl⟩
    case dmaAbortLand => obtain ⟨rfl, rfl⟩ | ⟨rfl, rfl⟩ := operandChannel_iff.1 h <;> exact ⟨rfl, rfl⟩
    all_goals
      obtain ⟨rfl, rfl⟩ := operand0_iff.1 h
      exact ⟨rfl, rfl⟩
  · rintro ⟨rfl, rfl⟩
    cases i <;> dsimp only [Instr.selector, Instr.operandBytes]
    case wrPtStart p => exact operandPtStart_iff.2 ⟨p, rfl, rfl⟩
    case wrAnalog v => exact operandAnalog_iff.2 ⟨v, rfl, rfl⟩
    case wrPwmCfg p => exact operandPwmCfg_iff.2 ⟨p, rfl, rfl⟩
    case setEventsEnabled b => exact operandBool_iff.2 ⟨b, rfl, rfl⟩
    case tickTime delta => exact operandTime_iff.2 ⟨delta, rfl, rfl⟩
    case adcConvert w => exact operand2_iff.2 ⟨w, rfl, rfl⟩
    case dmaAbortLand x => cases x <;> rfl
    all_goals rfl

/-! ## The obligations -/

/-- Settles O1: the selector's bytes are read back, then the operation map. -/
theorem decodeOfEncodeIsIdentity : Obligations.DecodeOfEncodeIsIdentity := by
  unfold Obligations.DecodeOfEncodeIsIdentity
  intro i
  rw [encode, decode_selBytes_append]
  exact decodeSelector_iff.2 ⟨rfl, rfl⟩

/-- Settles O2: a decoded frame begins with a selector, and the map fixes both parts. -/
theorem encodeOfDecodeIsIdentity : Obligations.EncodeOfDecodeIsIdentity := by
  unfold Obligations.EncodeOfDecodeIsIdentity
  intro frame i h
  obtain ⟨sel, ops, rfl⟩ := exists_selBytes_of_decode h
  rw [decode_selBytes_append] at h
  obtain ⟨rfl, rfl⟩ := decodeSelector_iff.1 h
  rfl

/-- Settles O3: the map names the selector that no operation has. -/
theorem unassignedSelectorsAreRefused : Obligations.UnassignedSelectorsAreRefused := by
  unfold Obligations.UnassignedSelectorsAreRefused
  intro sel ops hnone
  rw [decode_selBytes_append]
  exact (decodeSelector_assigned_or_refused sel ops).resolve_left fun ⟨i, hi⟩ => hnone i hi

/-- Settles O4: each frame is the encoding of its operation. -/
theorem writtenOutFramesDecode : Obligations.WrittenOutFramesDecode := by
  unfold Obligations.WrittenOutFramesDecode
  have hframe {frame : List Byte} {i : Instr} (h : encode i = frame) : decode frame = .ok i :=
    h ▸ decodeOfEncodeIsIdentity i
  exact ⟨hframe (by decide), hframe (by decide), hframe (by decide), hframe (by decide), hframe (by decide),
    hframe (by decide), hframe (by decide), hframe (by decide), hframe (by decide), hframe (by decide)⟩

end Sys2Proof.Machine

/-! # Writes to the register block (00_scope.md R10, 20_memory.md R52, R55)

The state with a given block of bytes has exactly that block, so a `MemWrite` is a splice of bytes and `MemRead` reads
the spliced bytes back. -/

namespace Sys2Proof.Machine

/-! ## The block of a state made from bytes -/

/-- A list of known length, entry by entry. -/
theorem eq_map_getD_range {bs : List Byte} {n : Nat} (h : bs.length = n) :
    bs = (List.range n).map fun i => bs.getD i 0 := by
  subst h
  refine List.ext_getElem (by simp) fun i hi _ => ?_
  simp [hi]

/-- Bytes as long as the block become the block. -/
theorem byteView_withByteView {s : State} {bs : List Byte} (h : bs.length = (byteView s).length) :
    byteView (s.withByteView bs) = bs := by
  rw [byteView_length] at h
  conv_rhs => rw [eq_map_getD_range h]
  cases hp : s.cfg.hasPwm <;>
    simp [byteView, fieldsOf, State.withByteView, hp, fieldValue, FieldValue.bytes, PtStart.bytes, Analog.bytes,
      PwmCfg.bytes, wordAt, elementAt, bytes4_u32Le, bytes2_u16Le, List.range_succ]

/-! ## Numbers as bytes -/

theorem numBytes_length (n v : Nat) : (numBytes n v).length = n := by simp [numBytes]

theorem numBytes_succ (n v : Nat) : numBytes (n + 1) v = BitVec.ofNat 8 v :: numBytes n (v / 256) := by
  simp only [numBytes, List.range_succ_eq_map, List.map_cons, List.map_map, Nat.mul_zero, Nat.shiftRight_zero]
  congr 1
  refine List.map_congr_left fun k _ => ?_
  have hshift : v >>> (8 * (k + 1)) = (v / 256) >>> (8 * k) := by
    rw [show 8 * (k + 1) = 8 + 8 * k by omega, Nat.shiftRight_add, Nat.shiftRight_eq_div_pow v 8]
  simp only [Function.comp, Nat.succ_eq_add_one, hshift]

/-- The first `n` bytes of a number are it modulo `256 ^ n`. -/
theorem leNumber_numBytes (n v : Nat) : leNumber (numBytes n v) = v % 256 ^ n := by
  induction n generalizing v with
  | zero => simp [numBytes, leNumber, Nat.mod_one]
  | succ n ih => rw [numBytes_succ, leNumber, ih, BitVec.toNat_ofNat, Nat.pow_succ' (m := 256), Nat.mod_mul]

/-! ## The obligation -/

/-- What a `MemWrite` that is inside the block leaves. -/
theorem byteView_memWrite {s t : State} {addr n v : Nat} (h : memWrite s addr n v = some t) :
    addr + n ≤ (byteView s).length ∧ t = s.withByteView (byteView t) ∧
    byteView t = (byteView s).take addr ++ (numBytes n v ++ (byteView s).drop (addr + n)) := by
  unfold memWrite at h
  split at h
  case isFalse => cases h
  case isTrue hin =>
    obtain rfl := Option.some.inj h
    rw [byteView_withByteView (by simp [numBytes_length]; omega), List.append_assoc]
    exact ⟨hin, rfl, rfl⟩

/-- Settles O6: the block after the write is the old one with the number's bytes in place. -/
theorem memReadAfterMemWrite : Obligations.MemReadAfterMemWrite := by
  unfold Obligations.MemReadAfterMemWrite
  intro s t addr n v h
  obtain ⟨hin, hstate, hview⟩ := byteView_memWrite h
  have htake : ((byteView s).take addr).length = addr := by simp; omega
  have hnum : (numBytes n v).length = n := numBytes_length n v
  refine ⟨?_, fun a ha => ?_, by rw [hstate]; rfl⟩
  · have hread := memRead_of_split (s := t) (i := 0) (n := n) (by rw [hview, List.append_assoc]) (by omega)
    rwa [htake, Nat.add_zero, List.drop_zero, List.take_of_length_le (by omega), leNumber_numBytes] at hread
  · rw [memByte, memByte, hview]
    rcases ha with hlt | hge
    · rw [List.getElem?_append_left (by omega), List.getElem?_take_of_lt hlt]
    · rw [List.getElem?_append_right (by omega), List.getElem?_append_right (by omega), List.getElem?_drop]
      congr 1
      omega

end Sys2Proof.Machine

/-! # The turn a step takes (00_scope.md R11, R12, 20_memory.md R64) -/

namespace Sys2Proof.Machine

theorem step_of_frame {s : State} {frame : List Byte} {i : Instr} {rest : List Turn} (hs : s.sched = .op frame :: rest)
    (hd : decode frame = .ok i) : step s = exec i { s with sched := rest } := by
  simp [step, fetch, hs, hd, State.advance]

/-- Settles O7: one case for each kind of turn. -/
theorem stepRunsTheTurn : Obligations.StepRunsTheTurn := by
  unfold Obligations.StepRunsTheTurn
  refine ⟨fun s frame rest i hs hd => step_of_frame hs hd, fun s frame rest e hs hd => ?_, fun s rest hs => ?_,
    fun s hs => ?_⟩
  · simp [step, fetch, hs, hd]
  · simp [step, fetch, hs, State.advance]
  · simp only [step, hs, fetch]
    rw [State.advance, hs, List.tail_nil, ← hs]

/-- Settles O8: the placed frame is taken off again by the step that runs it. -/
theorem fetchWordRunsTheOperation : Obligations.FetchWordRunsTheOperation := by
  unfold Obligations.FetchWordRunsTheOperation
  intro s nbits w i h
  have hd : decode (tableFrame nbits w) = .ok i := by
    unfold decodeTableWord at h
    cases hd : decode (tableFrame nbits w) with
    | ok j => rw [hd] at h; exact congrArg Except.ok (Option.some.inj h)
    | error e => rw [hd] at h; cases h
  exact step_of_frame rfl hd

end Sys2Proof.Machine

/-! # Guards (00_scope.md R12)

Every operation is a guarded step whose guard is the one the spec gives it. CONFIGURE is one while the pipeline is
stopped, and the PWM operations are in a variant with PWM. -/

namespace Sys2Proof.Machine

section
variable {s t : State} {i : Instr}

theorem fireEnabled_iff (m : Byte) (s : State) :
    fireEnabled m s = true ↔ (∃ t, (s.slot m).periodic = some t ∧ t ≤ s.now) ∧ s.drain.cb = .noCb := by
  rw [fireEnabled, Bool.and_eq_true, due_iff, irqFree_iff]

theorem endEnabled_iff (m : Byte) (s : State) :
    endEnabled m s = true ↔ (∃ t rest, (s.slot m).ends = t :: rest ∧ t ≤ s.now) ∧ s.drain.cb = .noCb := by
  rw [endEnabled, Bool.and_eq_true, due_iff, irqFree_iff]
  cases (s.slot m).ends <;> simp

theorem DrainCb.isPush_iff (cb : DrainCb) : cb.isPush = true ↔ ∃ item, cb = .push item := by
  cases cb <;> simp [DrainCb.isPush]

theorem exec_eq_guarded (hpwm : i.isPwm = true → s.cfg.hasPwm = true)
    (hconf : i = .configure → mainFree s = true → pipelineStopped s = true) :
    ∃ g f, exec i s = guarded g f s ∧ (g = true ↔ operationGuard i s) := by
  cases i
  case rdPwmCfg | rdPwmStop | wrPwmCfg | wrPwmStop =>
    exact ⟨_, _, pwmOnly_of_hasPwm (hpwm rfl) _, mainFree_iff s⟩
  case setEventsEnabled b => exact ⟨true, fun u => { u with eventsEnabled := b }, rfl, by simp [operationGuard]⟩
  case configure =>
    refine ⟨mainFree s, fun u => { u with configured := true }, if_neg ?_, mainFree_iff s⟩
    rw [Bool.and_eq_true, Bool.not_eq_true']
    exact fun h => Bool.false_ne_true (h.2.symm.trans (hconf rfl h.1))
  case tickTime delta => exact ⟨_, fun u => { u with now := u.now + delta }, rfl, Iff.rfl⟩
  case ptFire m => exact ⟨_, _, rfl, fireEnabled_iff m s⟩
  case ptEnd m => exact ⟨_, _, rfl, endEnabled_iff m s⟩
  case adcConvert => exact ⟨_, _, rfl, Iff.rfl⟩
  case dmaAXfer => exact ⟨_, _, rfl, transferAEnabled_iff s⟩
  case dmaBXfer => exact ⟨_, _, rfl, Iff.rfl⟩
  case dmaAbortLand x => exact ⟨_, _, rfl, by cases x <;> rfl⟩
  case drainFire => exact ⟨_, _, rfl, drainFireEnabled_iff s⟩
  case drainRead => exact ⟨_, _, rfl, Iff.rfl⟩
  case drainPush =>
    refine ⟨_, _, rfl, ?_⟩
    rw [drainPushEnabled_iff, DrainCb.isPush_iff, operationGuard, and_congr_right_iff]
    exact fun _ => and_comm
  case diChange v => exact ⟨_, fun u => { u with diPins := v }, rfl, Iff.rfl⟩
  case diEdge => exact ⟨_, _, rfl, edgeEnabled_iff s⟩
  case rdDiState | rdDoSet | rdDoClear | rdDoToggle | rdDoState | rdPtStart | rdPtStop | rdAnalog =>
    exact ⟨_, fun u => u.replyRead _, rfl, mainFree_iff s⟩
  case wrDiState | wrAnalog => exact ⟨_, fun u => u.raise _ .readOnly, rfl, mainFree_iff s⟩
  case update => exact ⟨_, fun u => (popSample u).goto .coordEval, rfl, mainFree_iff s⟩
  all_goals exact ⟨_, _, rfl, mainFree_iff s⟩

end

/-! ## The obligations -/

/-- Settles O9: the guarded step is held. -/
theorem disabledOperationsChangeNothing : Obligations.DisabledOperationsChangeNothing := by
  unfold Obligations.DisabledOperationsChangeNothing
  intro i s hpwm hguard
  obtain ⟨g, f, hexec, hg⟩ := exec_eq_guarded (i := i) (s := s) hpwm
    (by rintro rfl hfree; exact absurd ((mainFree_iff s).1 hfree) hguard)
  rw [hexec, guarded_of_false (Bool.eq_false_iff.2 (mt hg.1 hguard))]

/-- Settles O10: a guarded step answers a next state, held or not. -/
theorem wellFormedOperationsComplete : Obligations.WellFormedOperationsComplete := by
  unfold Obligations.WellFormedOperationsComplete
  intro i s hwf hconf
  have hpwm : i.isPwm = true → s.cfg.hasPwm = true := by
    obtain ⟨hvariant, -⟩ := Bool.and_eq_true_iff.1 hwf
    intro hi
    simpa [hi] using hvariant
  obtain ⟨g, f, hexec, -⟩ := exec_eq_guarded (i := i) (s := s) hpwm fun hi _ => hconf hi
  exact ⟨_, hexec⟩

/-- Settles O47: the four are the operations that `pwmOnly` wraps. -/
theorem pwmOperationsAreRefusedWithoutPwm : Obligations.PwmOperationsAreRefusedWithoutPwm := by
  unfold Obligations.PwmOperationsAreRefusedWithoutPwm
  intro i s hi hpwm
  have hrefused (o : Host.Outcome State Fault Refusal) : pwmOnly s o = .refused .noPwmVariant :=
    if_neg (by simp [hpwm])
  cases i
  case rdPwmCfg | rdPwmStop | wrPwmCfg | wrPwmStop => exact hrefused _
  all_goals cases hi

/-- Settles O13: with PWM both are the read of one field. -/
theorem pwmReadsReplyTheField : Obligations.PwmReadsReplyTheField := by
  unfold Obligations.PwmReadsReplyTheField
  intro s hpwm hidle hsnap
  have hread (k : Field) := readField_of_free ((mainFree_iff s).2 ⟨hidle, hsnap⟩) k
  exact ⟨(pwmOnly_of_hasPwm hpwm _).trans (hread .pwmCfg), (pwmOnly_of_hasPwm hpwm _).trans (hread .pwmStop)⟩

end Sys2Proof.Machine

/-! # Everything a step can do

What an operation leaves when its guard holds, written out with what is known of the state it is taken in; the sub-steps
of the main loop likewise. A step is one of these, or a turn that changes nothing. -/

namespace Sys2Proof.Machine

/-! ## Operations -/

/-- An operation that happens: its guard, and the state it leaves. -/
inductive OperationStep (s : State) : Instr → State → Prop
  | read (k : Field) (free : mainFree s = true) : OperationStep s (readOp k) (s.replyRead k)
  | wrDiState (v : Byte) (free : mainFree s = true) : OperationStep s (.wrDiState v) (s.raise .diState .readOnly)
  | wrAnalog (v : Analog) (free : mainFree s = true) : OperationStep s (.wrAnalog v) (s.raise .analog .readOnly)
  | wrDoSet (v : Byte) (free : mainFree s = true) : OperationStep s (.wrDoSet v) (doSetStore v s)
  | wrDoClear (v : Byte) (free : mainFree s = true) : OperationStep s (.wrDoClear v) (doClearStore v s)
  | wrDoToggle (v : Byte) (free : mainFree s = true) : OperationStep s (.wrDoToggle v) (doToggleStore v s)
  | wrDoState (v : Byte) (free : mainFree s = true) : OperationStep s (.wrDoState v) (doStateStore v s)
  | wrPtStart (p : PtStart) (free : mainFree s = true) : OperationStep s (.wrPtStart p) (ptStartStore p s)
  | wrPtStop (v : Byte) (free : mainFree s = true) : OperationStep s (.wrPtStop v) (ptStopStore v s)
  | wrPwmCfg (p : PwmCfg) (free : mainFree s = true) (pwm : s.cfg.hasPwm = true) :
      OperationStep s (.wrPwmCfg p) (pwmCfgStore p s)
  | wrPwmStop (v : Byte) (free : mainFree s = true) (pwm : s.cfg.hasPwm = true) :
      OperationStep s (.wrPwmStop v) (pwmStopStore v s)
  | reset (free : mainFree s = true) : OperationStep s .reset (resetEngine s)
  | updateEmpty (free : mainFree s = true) (queue : s.queue = []) : OperationStep s .update (s.goto .coordEval)
  | updatePop (item : SampleItem) (rest : List SampleItem) (free : mainFree s = true)
      (queue : s.queue = item :: rest) :
      OperationStep s .update
        { s with
          queue := rest
          regs := { s.regs with analog := analogOf item }
          out := s.out ++ [.event .analog item.timestamp (.analog (analogOf item))]
          main := .coordEval }
  | setEventsEnabled (b : Bool) : OperationStep s (.setEventsEnabled b) { s with eventsEnabled := b }
  | configure (free : mainFree s = true) (stopped : pipelineStopped s = true) :
      OperationStep s .configure { s with configured := true }
  | tickTime (delta : Time) (may : timeMayAdvance s delta = true) :
      OperationStep s (.tickTime delta) { s with now := s.now + delta }
  | ptFire (m : Byte) (target : Time) (armed : (s.slot m).periodic = some target) (due : target ≤ s.now)
      (irq : s.drain.cb = .noCb) :
      OperationStep s (.ptFire m)
        { s with
          slots := s.poolWith m ((s.slot m).fired s.now target)
          doPins := s.doPins ||| (s.slot m).outputMask
          regs := { s.regs with doSet := (s.slot m).outputMask }
          out := s.out ++ [.event .doSet s.now (.byte (s.slot m).outputMask)] }
  | ptEnd (m : Byte) (target : Time) (rest : List Time) (armed : (s.slot m).ends = target :: rest)
      (due : target ≤ s.now) (irq : s.drain.cb = .noCb) (more : (s.slot m).nextDelay ≠ 0) :
      OperationStep s (.ptEnd m)
        { s with
          slots := s.poolWith m { s.slot m with ends := rest }
          doPins := s.doPins &&& ~~~(s.slot m).outputMask
          regs := { s.regs with doClear := (s.slot m).outputMask }
          out := s.out ++ [.event .doClear s.now (.byte (s.slot m).outputMask)] }
  | ptEndLast (m : Byte) (target : Time) (rest : List Time) (armed : (s.slot m).ends = target :: rest)
      (due : target ≤ s.now) (irq : s.drain.cb = .noCb) (last : (s.slot m).nextDelay = 0) :
      OperationStep s (.ptEnd m)
        { s with
          slots := s.poolWith m (s.slot m).cancelled
          doPins := s.doPins &&& ~~~(s.slot m).outputMask
          regs := { s.regs with doClear := (s.slot m).outputMask, ptStop := (s.slot m).outputMask }
          out := s.out ++ [.event .doClear s.now (.byte (s.slot m).outputMask),
                           .event .ptStop s.now (.byte (s.slot m).outputMask)] }
  | adcConvert (w : Cell) (running : s.adc.running = true) : OperationStep s (.adcConvert w) (convert w s)
  | dmaAXfer (w : Cell) (rest : List Cell) (busy : s.chA.busy = true) (cell : s.chA.idx < 3)
      (fifo : s.adc.fifo = w :: rest) :
      OperationStep s .dmaAXfer
        { s with
          adc := { s.adc with fifo := rest }
          buf := s.buf.setIfInBounds s.chA.idx.val w
          chA := { s.chA with idx := s.chA.idx + 1, busy := s.chA.busy && !decide (s.chA.idx + 1 = 3) }
          chB := { s.chB with busy := s.chB.busy || decide (s.chA.idx + 1 = 3) } }
  | dmaBXfer (busy : s.chB.busy = true) : OperationStep s .dmaBXfer (transferB s)
  | abortLandA (requested : s.chA.abortReq = true) :
      OperationStep s (.dmaAbortLand .a) { s with chA := { s.chA with busy := false, abortReq := false } }
  | abortLandB (requested : s.chB.abortReq = true) :
      OperationStep s (.dmaAbortLand .b) { s with chB := { busy := false, abortReq := false } }
  | drainEnter (target : Time) (drain : s.drain = ⟨some target, .noCb⟩) (due : target ≤ s.now)
      (events : s.eventsEnabled = true) : OperationStep s .drainFire { s with drain := ⟨some target, .snap0⟩ }
  | drainSelfCancel (target : Time) (drain : s.drain = ⟨some target, .noCb⟩) (due : target ≤ s.now)
      (events : s.eventsEnabled = false) : OperationStep s .drainFire { s with drain := ⟨none, .noCb⟩ }
  | drainRead (snap : s.drain.cb.isSnap = true) : OperationStep s .drainRead (drainReadStep s)
  | drainPush (item : SampleItem) (target : Time) (drain : s.drain = ⟨some target, .push item⟩)
      (room : s.queue.length < 2) :
      OperationStep s .drainPush
        { s with queue := s.queue ++ [item], drain := ⟨some (target + s.cfg.drainPeriodUs), .noCb⟩ }
  | diChange (v : Byte) (inputs : inputBitsExist s.cfg.nDi v = true) :
      OperationStep s (.diChange v) { s with diPins := v }
  | diEdge (delivery : s.diIrqEnabled = true) (changed : s.diPins ≠ s.regs.diState) (irq : s.drain.cb = .noCb) :
      OperationStep s .diEdge (latchInputs s)

section
variable {s t : State} {i : Instr}

theorem held_or_operationStep {g : Bool} {f : State → State} (h : guarded g f s = .next t)
    (act : g = true → OperationStep s i (f s)) : t = s ∨ OperationStep s i t := by
  rcases guarded_next h with ⟨hg, rfl⟩ | ⟨-, rfl⟩
  · exact .inr (act hg)
  · exact .inl rfl

theorem readField_next {k : Field} (h : readField k s = .next t) : t = s ∨ OperationStep s (readOp k) t :=
  held_or_operationStep (f := fun u => u.replyRead k) h (.read k)

theorem drainFire_next (h : exec .drainFire s = .next t) : t = s ∨ OperationStep s .drainFire t := by
  refine held_or_operationStep h fun hg => ?_
  obtain ⟨⟨target, ht, hdue⟩, hcb⟩ := (drainFireEnabled_iff s).1 hg
  have hd : s.drain = ⟨some target, .noCb⟩ := by rw [← ht, ← hcb]
  rw [drainEnter, hd]
  split
  case isTrue he => exact .drainEnter target hd hdue he
  case isFalse he => exact .drainSelfCancel target hd hdue (Bool.eq_false_iff.2 he)

theorem drainPush_next (h : exec .drainPush s = .next t) : t = s ∨ OperationStep s .drainPush t := by
  refine held_or_operationStep h fun hg => ?_
  obtain ⟨hpush, htarget, hroom⟩ := (drainPushEnabled_iff s).1 hg
  obtain ⟨item, hcb⟩ := (DrainCb.isPush_iff _).1 hpush
  obtain ⟨target, ht⟩ := Option.ne_none_iff_exists'.1 htarget
  have hd : s.drain = ⟨some target, .push item⟩ := by rw [← ht, ← hcb]
  rw [drainReturn, hd]
  exact .drainPush item target hd hroom

theorem ptFire_next {m : Byte} (h : exec (.ptFire m) s = .next t) :
    t = s ∨ OperationStep s (.ptFire m) t := by
  refine held_or_operationStep h fun hg => ?_
  obtain ⟨⟨target, hp, hdue⟩, hcb⟩ := (fireEnabled_iff m s).1 hg
  rw [fireSlot, hp]
  exact .ptFire m target hp hdue hcb

theorem ptEnd_next {m : Byte} (h : exec (.ptEnd m) s = .next t) :
    t = s ∨ OperationStep s (.ptEnd m) t := by
  refine held_or_operationStep h fun hg => ?_
  obtain ⟨⟨target, rest, he, hdue⟩, hcb⟩ := (endEnabled_iff m s).1 hg
  rw [endSlot, he]
  dsimp only
  split
  case isTrue hs =>
    rw [completeTrain_endPulse]
    exact .ptEndLast m target rest he hdue hcb (of_decide_eq_true hs)
  case isFalse hs => exact .ptEnd m target rest he hdue hcb (mt decide_eq_true hs)

/-- An operation that answers a next state is held or happens. -/
theorem exec_next (h : exec i s = .next t) : t = s ∨ OperationStep s i t := by
  cases i
  case rdDiState | rdDoSet | rdDoClear | rdDoToggle | rdDoState | rdPtStart | rdPtStop | rdAnalog =>
    have hread := readField_next h
    exact hread
  case rdPwmCfg | rdPwmStop =>
    have hread := readField_next (pwmOnly_next h).2
    exact hread
  case wrDiState v => exact held_or_operationStep (f := fun u => u.raise _ _) h (.wrDiState v)
  case wrDoSet v => exact held_or_operationStep h (.wrDoSet v)
  case wrDoClear v => exact held_or_operationStep h (.wrDoClear v)
  case wrDoToggle v => exact held_or_operationStep h (.wrDoToggle v)
  case wrDoState v => exact held_or_operationStep h (.wrDoState v)
  case wrPtStart p => exact held_or_operationStep h (.wrPtStart p)
  case wrPtStop v => exact held_or_operationStep h (.wrPtStop v)
  case wrAnalog v => exact held_or_operationStep (f := fun u => u.raise _ _) h (.wrAnalog v)
  case wrPwmCfg p => exact held_or_operationStep (pwmOnly_next h).2 fun hg => .wrPwmCfg p hg (pwmOnly_next h).1
  case wrPwmStop v => exact held_or_operationStep (pwmOnly_next h).2 fun hg => .wrPwmStop v hg (pwmOnly_next h).1
  case reset => exact held_or_operationStep h .reset
  case update =>
    refine held_or_operationStep (f := fun u => (popSample u).goto .coordEval) h fun hg => ?_
    cases hq : s.queue with
    | nil => rw [popSample_of_nil hq]; exact .updateEmpty hg hq
    | cons item rest => rw [popSample_of_cons hq]; exact .updatePop item rest hg hq
  case setEventsEnabled b => cases h; exact .inr (.setEventsEnabled b)
  case configure =>
    simp only [exec, execConfigure] at h
    split at h
    case isTrue => cases h
    case isFalse hrun =>
      refine held_or_operationStep h fun hg => .configure hg ?_
      simpa [hg] using hrun
  case tickTime delta => exact held_or_operationStep (f := fun u => { u with now := u.now + delta }) h (.tickTime delta)
  case ptFire m => exact ptFire_next h
  case ptEnd m => exact ptEnd_next h
  case adcConvert w => exact held_or_operationStep h (.adcConvert w)
  case dmaAXfer =>
    refine held_or_operationStep h fun hg => ?_
    obtain ⟨hbusy, hcell, hne⟩ := (transferAEnabled_iff s).1 hg
    obtain ⟨w, rest, hf⟩ := List.exists_cons_of_ne_nil hne
    rw [transferA_eq hf]
    exact .dmaAXfer w rest hbusy hcell hf
  case dmaBXfer => exact held_or_operationStep h .dmaBXfer
  case dmaAbortLand x =>
    cases x with
    | a => exact held_or_operationStep h .abortLandA
    | b => exact held_or_operationStep h .abortLandB
  case drainFire => exact drainFire_next h
  case drainRead => exact held_or_operationStep h .drainRead
  case drainPush => exact drainPush_next h
  case diChange v => exact held_or_operationStep (f := fun u => { u with diPins := v }) h (.diChange v)
  case diEdge =>
    refine held_or_operationStep h fun hg => ?_
    obtain ⟨hirq, hdiff, hcb⟩ := (edgeEnabled_iff s).1 hg
    exact .diEdge hirq hdiff hcb

end

/-! ## Sub-steps of the main loop -/

/-- The sub-steps of the host's writes; those of the Coordinator are `TransitionSubStep`. -/
inductive WriteSubStep (s : State) : State → Prop
  | ack (k : Field) (pos : s.main = .ack k) : WriteSubStep s ((s.reply (.writeAck k)).goto .idle)
  | ptStartCancel (m : Byte) (w p c : Word) (pos : s.main = .ptStartCancel m w p c) :
      WriteSubStep s ((cancelSlot m s).goto (.ptStartArm m w p c))
  | ptStartArm (m : Byte) (w p c : Word) (pos : s.main = .ptStartArm m w p c) :
      WriteSubStep s ((armSlot m w p c s).goto (.ack .ptStart))
  | ptStopCancel (m : Byte) (pos : s.main = .ptStopCancel m) : WriteSubStep s ((cancelSlot m s).goto (.ack .ptStop))
  | pwmReject (f d : Word) (pos : s.main = .pwmApply f d) (zero : f = 0) :
      WriteSubStep s ((s.raise .pwmCfg .invalidConfig).goto .idle)
  | pwmRun (f d : Word) (pos : s.main = .pwmApply f d) (nonzero : f ≠ 0) :
      WriteSubStep s
        { s with
          pwm := { running := true, top := pwmTop s.cfg.pwmClkHz f, level := pwmLevel (pwmTop s.cfg.pwmClkHz f) d }
          out := s.out ++ [.writeAck .pwmCfg]
          main := .idle }
  | pwmHalt (pos : s.main = .pwmHalt) : WriteSubStep s ((pwmHalt s).goto (.ack .pwmStop))

section
variable {s t : State}

/-- A sub-step that answers a next state. -/
theorem subStep_next (h : subStep s = .next t) : t = s ∨ WriteSubStep s t ∨ TransitionSubStep s t := by
  by_cases hin : s.main = .coordEval ∨ s.main.outsideTransition = false
  · exact .inr (.inr (subStep_transition hin h))
  · cases hm : s.main <;> simp [hm, MainPos.outsideTransition] at hin <;>
      simp only [subStep, hm, Host.Outcome.next.injEq] at h <;> subst h
    case idle => exact .inl rfl
    case ack k => exact .inr (.inl (.ack k hm))
    case ptStartCancel m w p c => exact .inr (.inl (.ptStartCancel m w p c hm))
    case ptStartArm m w p c => exact .inr (.inl (.ptStartArm m w p c hm))
    case ptStopCancel m => exact .inr (.inl (.ptStopCancel m hm))
    case pwmApply f d =>
      unfold pwmApply
      split
      case isTrue hf => exact .inr (.inl (.pwmReject f d hm hf))
      case isFalse hf => exact .inr (.inl (.pwmRun f d hm hf))
    case pwmHalt => exact .inr (.inl (.pwmHalt hm))

/-! ## Steps -/

/-- Everything one step can do: nothing but take the turn, an operation, or a sub-step of the main loop. -/
theorem step_cases (h : step s = .next t) :
    t = s.advance ∨ (∃ i, fetch s.sched = .operation i ∧ OperationStep s.advance i t) ∨
      WriteSubStep s.advance t ∨ TransitionSubStep s.advance t := by
  unfold step at h
  split at h
  case h_1 =>
    rcases mainTurn_next h with ⟨-, ht⟩ | ⟨-, hsub⟩
    · exact .inl ht
    · exact (subStep_next hsub).imp_right .inr
  case h_2 i hi => exact (exec_next h).imp_right fun hop => .inl ⟨i, hi, hop⟩
  case h_3 => cases h

/-- What does not look at the schedule, and is kept by operations and sub-steps, is kept by every step. -/
theorem step_keeps {Inv : State → Prop} (advance : ∀ u, Inv u → Inv u.advance)
    (operation : ∀ u v i, OperationStep u i v → Inv u → Inv v) (write : ∀ u v, WriteSubStep u v → Inv u → Inv v)
    (transition : ∀ u v, TransitionSubStep u v → Inv u → Inv v) (h : step s = .next t) (hs : Inv s) : Inv t := by
  rcases step_cases h with rfl | ⟨i, -, hop⟩ | hwrite | htrans
  · exact advance s hs
  · exact operation _ t i hop (advance s hs)
  · exact write _ t hwrite (advance s hs)
  · exact transition _ t htrans (advance s hs)

end
end Sys2Proof.Machine

/-! # What every step keeps of the slots (10_state.md R22, R24, 40_pulse_train.md R111 to R116)

What a step can do to one slot is said once; each clause of R24 is then a fact about one slot's move. -/

namespace Sys2Proof.Machine

/-! ## The moves of one slot -/

/-- What a step at time `now` can do to slot `m`. -/
inductive SlotMove (now : Time) (m : Byte) (x : Slot) : Slot → Prop
  | kept : SlotMove now m x x
  | cancelled : SlotMove now m x x.cancelled
  | armed (w p c : Word) :
      SlotMove now m x
        { outputMask := m, widthUs := w, periodUs := p, remaining := c, active := true, periodic := some now,
          nextDelay := 0, ends := [] }
  | fired (target : Time) (armed : x.periodic = some target) : SlotMove now m x (x.fired now target)
  | ended (target : Time) (rest : List Time) (armed : x.ends = target :: rest) :
      SlotMove now m x { x with ends := rest }

section
variable {s t u : State} {i : Instr} {m : Byte} {y : Slot}

theorem SlotMove.of_slots_eq (h : t.slots = s.slots) (n : Byte) : SlotMove s.now n (s.slot n) (t.slot n) := by
  rw [State.slot_congr h]
  exact .kept

theorem SlotMove.of_poolWith (h : t.slots = s.poolWith m y) (move : SlotMove s.now m (s.slot m) y) (n : Byte) :
    SlotMove s.now n (s.slot n) (t.slot n) := by
  rw [State.slot_of_poolWith h]
  split
  case isTrue hn => exact hn ▸ move
  case isFalse => exact .kept

theorem SlotMove.of_cancelSlot (h : t.slots = (cancelSlot m s).slots) (n : Byte) :
    SlotMove s.now n (s.slot n) (t.slot n) := by
  rw [State.slot_congr h, slot_cancelSlot]
  split
  case isTrue hn => rw [hn.1]; exact .cancelled
  case isFalse => exact .kept

theorem OperationStep.slotMove (h : OperationStep s i t) (n : Byte) : SlotMove s.now n (s.slot n) (t.slot n) := by
  cases h
  case reset => rw [slot_resetEngine]; exact .cancelled
  case ptFire m target harmed _ _ => exact .of_poolWith rfl (.fired target harmed) n
  case ptEnd m target rest harmed _ _ _ => exact .of_poolWith rfl (.ended target rest harmed) n
  case ptEndLast m target rest _ _ _ _ => exact .of_poolWith rfl .cancelled n
  all_goals exact .of_slots_eq rfl n

theorem WriteSubStep.slotMove (h : WriteSubStep s t) (n : Byte) : SlotMove s.now n (s.slot n) (t.slot n) := by
  cases h
  case ptStartCancel | ptStopCancel => exact .of_cancelSlot rfl n
  case ptStartArm m w p c _ => exact .of_poolWith rfl (.armed w p c) n
  all_goals exact .of_slots_eq rfl n

theorem TransitionSubStep.slotMove (h : TransitionSubStep s t) (n : Byte) :
    SlotMove s.now n (s.slot n) (t.slot n) := by
  cases h
  case cancelSlot | cancelLast => exact .of_cancelSlot rfl n
  all_goals exact .of_slots_eq rfl n

/-- Everything a step can do to a slot. -/
theorem step_slotMove (h : step s = .next t) (n : Byte) : SlotMove s.now n (s.slot n) (t.slot n) := by
  rcases step_cases h with rfl | ⟨i, -, hop⟩ | hwrite | htrans
  · exact .kept
  · exact hop.slotMove n
  · exact hwrite.slotMove n
  · exact htrans.slotMove n

/-! ## A slot's timers and mask (R24 (a) to (c)) -/

theorem SlotMove.slotSound {now : Time} {x : Slot} (h : SlotMove now m x y) (hx : slotSound m x = true) :
    slotSound m y = true := by
  rw [slotSound_iff] at hx ⊢
  obtain ⟨hperiodic, hidle, hmask⟩ := hx
  cases h
  case kept => exact ⟨hperiodic, hidle, hmask⟩
  case cancelled => exact ⟨nofun, fun _ => ⟨rfl, rfl⟩, nofun⟩
  case armed => exact ⟨fun _ => rfl, nofun, fun _ => rfl⟩
  case fired target harmed =>
    have hactive : x.active = true := hperiodic (by rw [harmed]; rfl)
    exact ⟨fun _ => hactive, fun hoff => absurd (hoff.symm.trans hactive) Bool.false_ne_true, hmask⟩
  case ended target rest harmed =>
    refine ⟨hperiodic, fun hoff => ?_, hmask⟩
    rw [(hidle hoff).2] at harmed
    cases harmed

end

/-- Settles O48: no move of a slot breaks a clause. -/
theorem everyStepKeepsTheSlotsSound : Obligations.EveryStepKeepsTheSlotsSound := by
  unfold Obligations.EveryStepKeepsTheSlotsSound
  exact fun s t h hs m => (step_slotMove h m).slotSound (hs m)

/-! ## Device time (R21, R258) -/

section
variable {s t : State} {i : Instr}

theorem OperationStep.now_eq (h : OperationStep s i t) :
    t.now = s.now ∨ ∃ delta, i = .tickTime delta ∧ timeMayAdvance s delta = true ∧ t.now = s.now + delta := by
  cases h
  case tickTime delta hmay => exact .inr ⟨delta, rfl, hmay, rfl⟩
  all_goals exact .inl rfl

theorem WriteSubStep.now_eq (h : WriteSubStep s t) : t.now = s.now := by
  cases h
  case ptStartCancel m w p c _ => exact cancelSlot_now m s
  case ptStopCancel m _ => exact cancelSlot_now m s
  all_goals rfl

theorem TransitionSubStep.now_eq (h : TransitionSubStep s t) : t.now = s.now := by
  cases h
  case cancelSlot m _ _ => exact cancelSlot_now m s
  case cancelLast => exact cancelSlot_now 255 s
  all_goals rfl

/-- Only TICK_TIME changes the time, where its guard holds. -/
theorem step_now (h : step s = .next t) :
    t.now = s.now ∨
    ∃ delta, fetch s.sched = .operation (.tickTime delta) ∧ timeMayAdvance s delta = true ∧
      t.now = s.now + delta := by
  rcases step_cases h with rfl | ⟨i, hturn, hop⟩ | hwrite | htrans
  · exact .inl rfl
  · refine hop.now_eq.imp_right ?_
    rintro ⟨delta, rfl, hmay, hnow⟩
    exact ⟨delta, hturn, hmay, hnow⟩
  · exact .inl hwrite.now_eq
  · exact .inl htrans.now_eq

theorem timeMayAdvance_iff (s : State) (delta : Time) :
    timeMayAdvance s delta = true ↔
      delta ≠ 0 ∧ s.now.toNat + delta.toNat < 2 ^ 64 ∧
      ∀ j, s.cfg.jitterMaxUs = some j → s.drain.cb = .noCb →
        ∀ a ∈ armedTargets s, s.now.toNat + delta.toNat ≤ a.toNat + j := by
  rw [timeMayAdvance, Bool.and_eq_true, Bool.and_eq_true, bne_iff_ne, decide_eq_true_eq, and_assoc]
  refine and_congr_right fun _ => and_congr_right fun _ => ?_
  cases s.cfg.jitterMaxUs with
  | none => simp
  | some j =>
    simp only [Bool.or_eq_true, Bool.not_eq_true', ← Bool.not_eq_true, irqFree_iff, List.all_eq_true,
      decide_eq_true_eq, Option.some.injEq, forall_eq']
    exact imp_iff_not_or.symm

theorem step_now_le (h : step s = .next t) : s.now ≤ t.now := by
  rcases step_now h with hnow | ⟨delta, -, hmay, hnow⟩
  · rw [hnow]
    exact BitVec.le_refl _
  · obtain ⟨-, hfits, -⟩ := (timeMayAdvance_iff s delta).1 hmay
    rw [hnow, BitVec.le_def, BitVec.toNat_add, Nat.mod_eq_of_lt hfits]
    exact Nat.le_add_right ..

/-- An operation's turn is a frame at the head of the schedule. -/
theorem exists_frame_of_fetch {sched : List Turn} (h : fetch sched = .operation i) :
    ∃ frame rest, sched = .op frame :: rest ∧ decode frame = .ok i := by
  unfold fetch at h
  split at h
  case h_3 frame rest =>
    split at h
    case h_1 j hj => cases h; exact ⟨frame, rest, rfl, hj⟩
    case h_2 => cases h
  all_goals cases h

end

/-- Settles O27: TICK_TIME adds its operand, and its guard rules out a wrap. -/
theorem timeOnlyMovesForward : Obligations.TimeOnlyMovesForward := by
  unfold Obligations.TimeOnlyMovesForward
  intro s t h
  refine ⟨step_now_le h, fun hne => ?_⟩
  obtain ⟨delta, hturn, -, hnow⟩ := (step_now h).resolve_left hne
  obtain ⟨frame, rest, hsched, hdecode⟩ := exists_frame_of_fetch hturn
  exact ⟨frame, rest, delta, hsched, hdecode, hnow⟩

/-- Settles O26: the guard of TICK_TIME, with the armed alarms as R258 lists them. -/
theorem timeAdvancesWithinTheJitterBound : Obligations.TimeAdvancesWithinTheJitterBound := by
  unfold Obligations.TimeAdvancesWithinTheJitterBound
  intro s delta
  simp only [← mem_armedTargets]
  have hheld (h : ¬ timeMayAdvance s delta = true) : exec (.tickTime delta) s = .next s :=
    guarded_of_false (Bool.eq_false_iff.2 h) (fun u => { u with now := u.now + delta }) s
  rw [timeMayAdvance_iff] at hheld
  refine ⟨fun hpos hfits hlate => ?_, fun j a hj hcb ha hlate => hheld ?_, fun hill => hheld ?_⟩
  · exact guarded_of_true ((timeMayAdvance_iff s delta).2 ⟨hpos, hfits, hlate⟩)
      (fun u => { u with now := u.now + delta }) s
  · rintro ⟨-, -, hall⟩
    exact absurd (hall j hj hcb a ha) (Nat.not_le.2 hlate)
  · rintro ⟨hpos, hfits, -⟩
    exact hill.elim hpos (Nat.not_le.2 hfits)

/-! ## The end alarms (R24 (d)) -/

theorem timesSorted_iff (l : List Time) : timesSorted l = true ↔ l.Pairwise (· ≤ ·) := by
  induction l with
  | nil => simp [timesSorted]
  | cons a l ih =>
    cases l with
    | nil => simp [timesSorted]
    | cons b l =>
      simp only [timesSorted, Bool.and_eq_true, decide_eq_true_eq, ih, List.pairwise_cons (a := a), List.forall_mem_cons]
      refine ⟨fun ⟨hab, hl⟩ => ⟨⟨hab, fun c hc => ?_⟩, hl⟩, fun ⟨⟨hab, _⟩, hl⟩ => ⟨hab, hl⟩⟩
      exact BitVec.le_trans hab ((List.pairwise_cons.1 hl).1 c hc)

section
variable {m : Byte} {x y : Slot} {now later : Time}

theorem endsSound_mono (h : endsSound now x = true) (hle : now ≤ later) : endsSound later x = true := by
  rw [endsSound_iff] at h ⊢
  exact ⟨h.1, fun t ht => (h.2 t ht).trans (Nat.add_le_add_right hle _)⟩

theorem endsSound_nil (h : x.ends = []) : endsSound now x = true := by
  rw [endsSound_iff, h]
  exact ⟨rfl, nofun⟩

/-- Below 2^63 the end alarm of a pulse that starts now is its width ahead. -/
theorem toNat_add_durationOf (w : Word) (hfar : now.toNat < 2 ^ 63) :
    (now + durationOf w).toNat = now.toNat + w.toNat := by
  have hw : (durationOf w).toNat = w.toNat := BitVec.toNat_setWidth_of_le (by decide)
  have hlt := w.isLt
  rw [BitVec.toNat_add, hw, Nat.mod_eq_of_lt (by omega)]

/-- A new end alarm is the last: the older ones were armed no later, with the same width. -/
theorem SlotMove.endsSound (h : SlotMove now m x y) (hfar : now.toNat < 2 ^ 63) (hx : endsSound now x = true) :
    endsSound now y = true := by
  cases h
  case kept => exact hx
  case cancelled => exact endsSound_nil rfl
  case armed => exact endsSound_nil rfl
  case fired target _ =>
    have hnew := toNat_add_durationOf x.widthUs hfar
    rw [endsSound_iff, timesSorted_iff] at hx ⊢
    obtain ⟨hsorted, hahead⟩ := hx
    simp only [Slot.fired, List.pairwise_append, List.mem_append, List.mem_singleton]
    refine ⟨⟨hsorted, List.pairwise_singleton .., ?_⟩, ?_⟩
    · rintro e he _ rfl
      rw [BitVec.le_def, hnew]
      exact hahead e he
    · rintro e (he | rfl)
      · exact hahead e he
      · exact hnew.le
  case ended target rest harmed =>
    rw [endsSound_iff, timesSorted_iff, harmed] at hx
    rw [endsSound_iff, timesSorted_iff]
    exact ⟨hx.1.tail, fun e he => hx.2 e (List.mem_cons_of_mem _ he)⟩

end

/-- Settles O49: no move of a slot breaks the order at the time of the step, and time does not go back. -/
theorem everyStepKeepsTheEndAlarmsSorted : Obligations.EveryStepKeepsTheEndAlarmsSorted := by
  unfold Obligations.EveryStepKeepsTheEndAlarmsSorted
  intro s t h hfar hs m
  exact endsSound_mono ((step_slotMove h m).endsSound (of_decide_eq_true hfar) (hs m)) (step_now_le h)

end Sys2Proof.Machine

/-! # What the main loop's sub-steps leave alone (20_memory.md R65, 42_coordinator.md R184, R185) -/

namespace Sys2Proof.Machine

section
variable {s t : State}

theorem cancelSlot_frame (m : Byte) (s : State) :
    cancelSlot m s =
      { s with
        slots := (cancelSlot m s).slots
        regs := { s.regs with ptStop := (cancelSlot m s).regs.ptStop }
        out := (cancelSlot m s).out } := by
  rcases cancelSlot_cases m s with ⟨-, h⟩ | ⟨-, h⟩ <;> rw [h]

/-- The sub-steps of the host's writes leave the inputs, the pins and the whole pipeline. -/
theorem WriteSubStep.frame (h : WriteSubStep s t) :
    t = { s with
      main := t.main, slots := t.slots, regs := { s.regs with ptStop := t.regs.ptStop }, pwm := t.pwm,
      out := t.out } := by
  cases h
  case ptStartCancel m w p c _ => rw [cancelSlot_frame]; rfl
  case ptStopCancel m _ => rw [cancelSlot_frame]; rfl
  all_goals rfl

/-- The sub-steps of the Coordinator leave the inputs, the pins and the PWM generator. -/
theorem TransitionSubStep.frame (h : TransitionSubStep s t) :
    t = { s with
      main := t.main, slots := t.slots, regs := { s.regs with ptStop := t.regs.ptStop }, out := t.out,
      coord := t.coord, diIrqEnabled := t.diIrqEnabled, adc := t.adc, chA := t.chA, chB := t.chB, drain := t.drain,
      queue := t.queue } := by
  cases h
  case cancelSlot m _ _ => rw [Machine.cancelSlot_frame]; rfl
  case cancelLast => rw [Machine.cancelSlot_frame]; rfl
  all_goals rfl

/-- After a sub-step of the Coordinator the main loop is inside no PWM write. -/
theorem TransitionSubStep.main_noPwm (h : TransitionSubStep s t) :
    t.main.dutyClamped = true ∧ t.main.isPwmStep = false := by
  cases h
  case coordEval =>
    rw [State.goto_main, coordNext]
    split <;> exact ⟨rfl, rfl⟩
  all_goals exact ⟨rfl, rfl⟩

end
end Sys2Proof.Machine

/-! # The bounds of fields and queues (10_state.md R29, R36, R42, R46, R47, 44_pwm.md R226)

Each bound by itself: the few operations and sub-steps that write what it speaks of, and the frame for the rest. -/

namespace Sys2Proof.Machine

section
variable {s t : State} {i : Instr}

/-! ## Inputs (R29) -/

theorem inputBitsExist_zero (n : Nat) : inputBitsExist n 0 = true := by
  rw [inputBitsExist_iff]
  simp

theorem OperationStep.inputsSound (h : OperationStep s i t) (hs : inputsSound s = true) : inputsSound t = true := by
  obtain ⟨hpins, hstate⟩ := (inputsSound_iff s).1 hs
  cases h
  case reset =>
    refine (inputsSound_iff _).2 ⟨hpins, ?_⟩
    show inputBitsExist s.cfg.nDi (s.regs.cleared s.cfg.hasPwm).diState = true
    rw [cleared_eq]
    exact inputBitsExist_zero _
  case diChange v hv => exact (inputsSound_iff _).2 ⟨hv, hstate⟩
  case diEdge => exact (inputsSound_iff _).2 ⟨hpins, hpins⟩
  all_goals exact hs

/-! ## Analog values (R36) -/

theorem analogElement_lt (v : Sample) : analogElement v < 4096 := by
  rw [analogElement, BitVec.lt_def, BitVec.toNat_setWidth_of_le (by decide)]
  exact v.isLt

theorem OperationStep.analogSound (h : OperationStep s i t) (hs : analogSound s = true) : analogSound t = true := by
  cases h
  case reset =>
    rw [analogSound_iff, resetEngine, cleared_eq]
    have hzero : (0 : Cell) < 4096 := by decide
    exact ⟨hzero, hzero, hzero⟩
  case updatePop => exact (analogSound_iff _).2 ⟨analogElement_lt _, analogElement_lt _, analogElement_lt _⟩
  all_goals exact hs

/-! ## Queues (R42, R46) -/

theorem OperationStep.queuesSound (h : OperationStep s i t) (hs : queuesSound s = true) : queuesSound t = true := by
  obtain ⟨hfifo, hqueue⟩ := (queuesSound_iff s).1 hs
  cases h
  case reset => exact (queuesSound_iff _).2 ⟨Nat.zero_le _, Nat.zero_le _⟩
  case updatePop item rest _ hq =>
    rw [hq] at hqueue
    exact (queuesSound_iff _).2 ⟨hfifo, Nat.le_of_succ_le hqueue⟩
  case adcConvert w _ =>
    refine (queuesSound_iff _).2 ⟨?_, hqueue⟩
    show (if _ then _ else _ : List Cell).length ≤ s.cfg.adcFifoDepth
    split
    case isTrue hroom => rwa [List.length_append, List.length_singleton]
    case isFalse => exact hfifo
  case dmaAXfer w rest _ _ hf =>
    rw [hf] at hfifo
    exact (queuesSound_iff _).2 ⟨Nat.le_of_succ_le hfifo, hqueue⟩
  case drainPush item target _ hroom =>
    refine (queuesSound_iff _).2 ⟨hfifo, ?_⟩
    rwa [List.length_append, List.length_singleton]
  all_goals exact hs

theorem TransitionSubStep.queuesSound (h : TransitionSubStep s t) (hs : queuesSound s = true) :
    queuesSound t = true := by
  obtain ⟨hfifo, hqueue⟩ := (queuesSound_iff s).1 hs
  cases h
  case stopConvert => exact (queuesSound_iff _).2 ⟨Nat.zero_le _, hqueue⟩
  case stopFlush => exact (queuesSound_iff _).2 ⟨hfifo, Nat.zero_le _⟩
  case cancelSlot | cancelLast => simpa [queuesSound_iff] using hs
  all_goals exact hs

/-! ## The PWM generator (R47, R222, R226) -/

theorem clampDuty_le (d : Word) : clampDuty d ≤ 100 := by
  unfold clampDuty
  split
  case isTrue h => exact h
  case isFalse => exact BitVec.le_refl _

theorem pwmLevel_le {top : Nat} {d : Word} (h : d ≤ 100) : pwmLevel top d ≤ top := by
  have hd : d.toNat ≤ 100 := h
  rw [pwmLevel]
  exact Nat.div_le_of_le_mul (Nat.mul_comm 100 top ▸ Nat.mul_le_mul_left top hd)

theorem OperationStep.pwmSound (h : OperationStep s i t) (hs : pwmSound s = true) : pwmSound t = true := by
  obtain ⟨hlevel, hduty⟩ := (pwmSound_iff s).1 hs
  cases h
  case wrPwmCfg p _ _ => exact (pwmSound_iff _).2 ⟨hlevel, decide_eq_true (clampDuty_le p.dutyPercent)⟩
  case reset =>
    refine (pwmSound_iff _).2 ⟨fun hrun => ?_, hduty⟩
    revert hrun
    simp only [resetEngine]
    split
    case isTrue => exact nofun
    case isFalse => exact hlevel
  case wrDoSet | wrDoClear | wrDoToggle | wrDoState | wrPtStart | wrPtStop | wrPwmStop | updateEmpty | updatePop =>
    exact (pwmSound_iff _).2 ⟨hlevel, rfl⟩
  all_goals exact hs

theorem WriteSubStep.pwmSound (h : WriteSubStep s t) (hs : pwmSound s = true) : pwmSound t = true := by
  obtain ⟨hlevel, hduty⟩ := (pwmSound_iff s).1 hs
  cases h
  case pwmRun f d hpos _ =>
    rw [hpos] at hduty
    exact (pwmSound_iff _).2 ⟨fun _ => pwmLevel_le (of_decide_eq_true hduty), rfl⟩
  case pwmHalt => exact (pwmSound_iff _).2 ⟨nofun, rfl⟩
  case ptStartCancel | ptStopCancel => exact (pwmSound_iff _).2 ⟨by simpa using hlevel, rfl⟩
  all_goals exact (pwmSound_iff _).2 ⟨hlevel, rfl⟩

theorem TransitionSubStep.pwmSound (h : TransitionSubStep s t) (hs : pwmSound s = true) : pwmSound t = true := by
  obtain ⟨hlevel, -⟩ := (pwmSound_iff s).1 hs
  refine (pwmSound_iff t).2 ⟨?_, h.main_noPwm.1⟩
  rw [h.frame]
  exact hlevel

/-- Without PWM neither the generator nor its fields are ever written, because no PWM write begins. -/
theorem OperationStep.pwmAbsent (h : OperationStep s i t) (hs : pwmAbsent s = true) : pwmAbsent t = true := by
  rcases (pwmAbsent_iff s).1 hs with hpwm | ⟨hgen, hcfg, hstop, hpos⟩
  · refine (pwmAbsent_iff t).2 (.inl ?_)
    cases h
    all_goals exact hpwm
  cases h
  case wrPwmCfg p _ hpwm | wrPwmStop v _ hpwm => exact (pwmAbsent_iff _).2 (.inl hpwm)
  case reset =>
    cases hpwm : s.cfg.hasPwm with
    | true => exact (pwmAbsent_iff _).2 (.inl hpwm)
    | false =>
      refine (pwmAbsent_iff _).2 (.inr ?_)
      simpa [resetEngine, cleared_eq, hpwm] using ⟨hgen, hcfg, hstop, hpos⟩
  case wrDoSet | wrDoClear | wrDoToggle | wrDoState | wrPtStart | wrPtStop | updateEmpty | updatePop =>
    exact (pwmAbsent_iff _).2 (.inr ⟨hgen, hcfg, hstop, rfl⟩)
  all_goals exact hs

theorem WriteSubStep.pwmAbsent (h : WriteSubStep s t) (hs : pwmAbsent s = true) : pwmAbsent t = true := by
  rcases (pwmAbsent_iff s).1 hs with hpwm | ⟨hgen, hcfg, hstop, hpos⟩
  · refine (pwmAbsent_iff t).2 (.inl ?_)
    rw [h.frame]
    exact hpwm
  cases h
  case pwmReject f d hm _ | pwmRun f d hm _ => simp [hm, MainPos.isPwmStep] at hpos
  case pwmHalt hm => simp [hm, MainPos.isPwmStep] at hpos
  case ptStartCancel | ptStopCancel =>
    refine (pwmAbsent_iff _).2 (.inr ?_)
    simpa [cancelSlot_regs, MainPos.isPwmStep] using ⟨hgen, hcfg, hstop⟩
  all_goals exact (pwmAbsent_iff _).2 (.inr ⟨hgen, hcfg, hstop, rfl⟩)

theorem TransitionSubStep.pwmAbsent (h : TransitionSubStep s t) (hs : pwmAbsent s = true) : pwmAbsent t = true := by
  refine (pwmAbsent_iff t).2 (((pwmAbsent_iff s).1 hs).imp (fun hpwm => ?_) fun ⟨hgen, hcfg, hstop, _⟩ => ?_)
  · rw [h.frame]
    exact hpwm
  · have hpos := h.main_noPwm.2
    rw [h.frame] at hpos ⊢
    exact ⟨hgen, hcfg, hstop, hpos⟩

end

/-! ## The obligation -/

/-- Settles O50: each bound by itself, over what a step can do. -/
theorem everyStepKeepsTheDataBounds : Obligations.EveryStepKeepsTheDataBounds := by
  unfold Obligations.EveryStepKeepsTheDataBounds
  intro s t h
  refine step_keeps (Inv := fun u => dataSound u = true) (fun _ => id) (fun u v i hop hu => ?_)
    (fun u v hwrite hu => ?_) (fun u v htrans hu => ?_) h
  all_goals
    obtain ⟨hinputs, hanalog, hqueues, hpwm, habsent⟩ := (dataSound_iff u).1 hu
    rw [dataSound_iff]
  · exact ⟨hop.inputsSound hinputs, hop.analogSound hanalog, hop.queuesSound hqueues, hop.pwmSound hpwm,
      hop.pwmAbsent habsent⟩
  · refine ⟨?_, ?_, ?_, hwrite.pwmSound hpwm, hwrite.pwmAbsent habsent⟩ <;> rw [hwrite.frame]
    exacts [hinputs, hanalog, hqueues]
  · refine ⟨?_, ?_, htrans.queuesSound hqueues, htrans.pwmSound hpwm, htrans.pwmAbsent habsent⟩ <;>
      rw [htrans.frame]
    exacts [hinputs, hanalog]

end Sys2Proof.Machine

/-! # The Coordinator, the main loop and the pipeline agree (41_sampling.md R147, R155, R156, 42_coordinator.md R184, R185)

Outside RESET and the Coordinator's own sub-steps the pipeline only goes on: what is off stays off, and exactly one busy
channel stays exactly one. So at every position of the main loop its part of `coordSound` is kept by the other agents,
and each sub-step of a transition brings it from one position's part to the next. -/

namespace Sys2Proof.Machine

section
variable {s t : State} {i : Instr}

/-! ## The pipeline goes on -/

/-- What all steps but RESET and the Coordinator's sub-steps keep of the pipeline. -/
structure GoesOn (s t : State) : Prop where
  coord : t.coord = s.coord
  delivery : t.diIrqEnabled = s.diIrqEnabled
  running : t.adc.running = s.adc.running
  noWord : s.adc.running = false → s.adc.fifo = [] → t.adc.fifo = []
  oneBusy : oneChannelBusy s = true → oneChannelBusy t = true
  notBoth : (s.chA.busy && s.chB.busy) = false → (t.chA.busy && t.chB.busy) = false
  landed : abortsLanded s = true → abortsLanded t = true
  drainOff : drainOff s = true → drainOff t = true
  noItem : Machine.drainOff s = true → s.queue = [] → t.queue = []

/-- A step that leaves the pipeline alone. -/
theorem GoesOn.of_kept
    (h : t = { t with
      coord := s.coord, diIrqEnabled := s.diIrqEnabled, adc := s.adc, chA := s.chA, chB := s.chB, drain := s.drain,
      queue := s.queue }) : GoesOn s t := by
  rw [h]
  exact ⟨rfl, rfl, rfl, fun _ => id, id, id, id, id, fun _ => id⟩

theorem not_drainOff_of_armed {target : Time} (h : s.drain.target = some target) : drainOff s ≠ true := by
  rw [ne_eq, drainOff_iff, h]
  exact nofun

theorem not_abortsLanded_of_busy (h : s.chA.busy = true ∨ s.chB.busy = true) : abortsLanded s ≠ true := by
  rw [ne_eq, abortsLanded_iff]
  rintro ⟨⟨hA, -⟩, hB, -⟩
  simp [hA, hB] at h

theorem not_landed_of_requested (h : s.chA.abortReq = true ∨ s.chB.abortReq = true) :
    abortsLanded s ≠ true ∧ oneChannelBusy s ≠ true := by
  rw [ne_eq, ne_eq, abortsLanded_iff, oneChannelBusy_iff]
  constructor
  · rintro ⟨⟨-, hA⟩, -, hB⟩
    simp [hA, hB] at h
  · rintro ⟨-, hA, hB⟩
    simp [hA, hB] at h

theorem OperationStep.goesOn_or_reset (h : OperationStep s i t) :
    GoesOn s t ∨ s.main = .idle ∧ t = resetEngine s := by
  cases h
  case reset hfree => exact .inr ⟨((mainFree_iff s).1 hfree).1, rfl⟩
  all_goals left
  case updatePop item rest _ hq => exact ⟨rfl, rfl, rfl, fun _ => id, id, id, id, id, fun _ he => by simp [hq] at he⟩
  case adcConvert w hrun =>
    exact ⟨rfl, rfl, rfl, fun hstop => absurd (hstop.symm.trans hrun) Bool.false_ne_true, id, id, id, id, fun _ => id⟩
  case dmaAXfer w rest hbusy _ hf =>
    refine ⟨rfl, rfl, rfl, fun _ he => by simp [hf] at he, fun hone => ?_, fun hnot => ?_,
      fun hl => absurd hl (not_abortsLanded_of_busy (.inl hbusy)), id, fun _ => id⟩
    · rw [oneChannelBusy_iff, hbusy] at hone
      obtain ⟨hB, hreq⟩ := hone
      have hB : s.chB.busy = false := by simpa using hB.symm
      refine (oneChannelBusy_iff _).2 ⟨?_, hreq⟩
      simp [hbusy, hB]
    · have hB : s.chB.busy = false := by simpa [hbusy] using hnot
      simp [hbusy, hB]
  case dmaBXfer hbusy =>
    refine ⟨rfl, rfl, rfl, fun _ => id, fun hone => ?_, fun _ => rfl,
      fun hl => absurd hl (not_abortsLanded_of_busy (.inr hbusy)), id, fun _ => id⟩
    exact (oneChannelBusy_iff _).2 ⟨nofun, ((oneChannelBusy_iff s).1 hone).2⟩
  case abortLandA hreq =>
    obtain ⟨hland, hone⟩ := not_landed_of_requested (.inl hreq)
    exact ⟨rfl, rfl, rfl, fun _ => id, fun h => absurd h hone, fun _ => rfl, fun h => absurd h hland, id, fun _ => id⟩
  case abortLandB hreq =>
    obtain ⟨hland, hone⟩ := not_landed_of_requested (.inr hreq)
    exact ⟨rfl, rfl, rfl, fun _ => id, fun h => absurd h hone, fun _ => Bool.and_false _, fun h => absurd h hland, id,
      fun _ => id⟩
  case drainEnter target hd _ _ | drainSelfCancel target hd _ _ =>
    have harmed := not_drainOff_of_armed (s := s) (target := target) (by rw [hd])
    exact ⟨rfl, rfl, rfl, fun _ => id, id, id, id, fun h => absurd h harmed, fun _ => id⟩
  case drainRead hsnap =>
    refine ⟨rfl, rfl, rfl, fun _ => id, id, id, id, fun hoff => ?_, fun _ => id⟩
    simp [((drainOff_iff s).1 hoff).2, DrainCb.isSnap] at hsnap
  case drainPush item target hd _ =>
    have harmed := not_drainOff_of_armed (s := s) (target := target) (by rw [hd])
    exact ⟨rfl, rfl, rfl, fun _ => id, id, id, id, fun h => absurd h harmed, fun h => absurd h harmed⟩
  all_goals exact .of_kept rfl

theorem WriteSubStep.goesOn (h : WriteSubStep s t) : GoesOn s t := .of_kept (by rw [h.frame])

theorem pipelineStopped_iff_parts (s : State) :
    pipelineStopped s = true ↔
      abortsLanded s = true ∧ s.adc.running = false ∧ s.adc.fifo = [] ∧ drainOff s = true := by
  rw [pipelineStopped_iff, abortsLanded_iff, drainOff_iff]
  simp only [and_assoc]

theorem GoesOn.stopped (h : GoesOn s t) (hs : pipelineStopped s = true) : pipelineStopped t = true := by
  obtain ⟨hland, hrun, hfifo, hdrain⟩ := (pipelineStopped_iff_parts s).1 hs
  exact (pipelineStopped_iff_parts t).2 ⟨h.landed hland, h.running.trans hrun, h.noWord hrun hfifo, h.drainOff hdrain⟩

theorem GoesOn.off (h : GoesOn s t) (hs : acquisitionOff s = true) : acquisitionOff t = true := by
  obtain ⟨hstop, hqueue, hirq⟩ := (acquisitionOff_iff s).1 hs
  obtain ⟨-, -, -, hdrain⟩ := (pipelineStopped_iff_parts s).1 hstop
  exact (acquisitionOff_iff t).2 ⟨h.stopped hstop, h.noItem hdrain hqueue, h.delivery.trans hirq⟩

theorem GoesOn.on (h : GoesOn s t) (hs : acquisitionOn s = true) : acquisitionOn t = true := by
  obtain ⟨hrun, hone, hirq⟩ := (acquisitionOn_iff s).1 hs
  exact (acquisitionOn_iff t).2 ⟨h.running.trans hrun, h.oneBusy hone, h.delivery.trans hirq⟩

theorem GoesOn.asCoord (h : GoesOn s t) (hs : acquisitionAsCoord s = true) : acquisitionAsCoord t = true := by
  unfold acquisitionAsCoord at hs ⊢
  rw [h.coord]
  cases hc : s.coord <;> rw [hc] at hs
  · exact h.off hs
  · exact h.on hs

/-! ## Outside a transition, and at each position inside one -/

/-- No slot becomes active. -/
def IdleSlotsStay (s t : State) : Prop := ∀ n, (s.slot n).active = false → (t.slot n).active = false

theorem IdleSlotsStay.below (h : IdleSlotsStay s t) {n : Nat} (hs : slotsIdleBelow s n = true) :
    slotsIdleBelow t n = true := by
  simp only [slotsIdleBelow, List.all_eq_true, Bool.not_eq_true'] at hs ⊢
  exact fun k hk => h _ (hs k hk)

/-- Only arming makes a slot active, and no operation arms. -/
theorem OperationStep.idleSlotsStay (h : OperationStep s i t) : IdleSlotsStay s t := by
  intro n hidle
  cases h
  case reset => rw [slot_resetEngine]; rfl
  case ptFire m _ _ _ _ | ptEnd m _ _ _ _ _ _ =>
    rw [State.slot_of_poolWith rfl]
    split
    case isTrue hn => exact hn ▸ hidle
    case isFalse => exact hidle
  case ptEndLast m _ _ _ _ _ _ =>
    rw [State.slot_of_poolWith rfl]
    split
    case isTrue => rfl
    case isFalse => exact hidle
  all_goals exact hidle

/-- What `coordSound` asks at a position of the main loop. -/
def PositionSound (p : MainPos) (s : State) : Prop :=
  match p with
  | .idle | .ack _ | .ptStartCancel _ _ _ _ | .ptStartArm _ _ _ _ | .ptStopCancel _ | .pwmApply _ _ | .pwmHalt
  | .coordEval => acquisitionAsCoord s = true
  | .enableIrq => s.coord = .inactive ∧ acquisitionOff s = true
  | .startSelect | .startTrigger =>
    s.coord = .inactive ∧ pipelineStopped s = true ∧ s.queue = [] ∧ s.diIrqEnabled = true
  | .startConvert =>
    s.coord = .inactive ∧ s.adc.running = false ∧ s.adc.fifo = [] ∧ oneChannelBusy s = true ∧ drainOff s = true ∧
      s.queue = [] ∧ s.diIrqEnabled = true
  | .startDrain => s.coord = .inactive ∧ acquisitionOn s = true ∧ drainOff s = true ∧ s.queue = []
  | .enableDone => s.coord = .inactive ∧ acquisitionOn s = true
  | .disableIrq => s.coord = .active ∧ acquisitionOn s = true
  | .stopDrain => s.coord = .active ∧ s.adc.running = true ∧ oneChannelBusy s = true ∧ s.diIrqEnabled = false
  | .abortRequest | .abortTest =>
    s.coord = .active ∧ (s.chA.busy && s.chB.busy) = false ∧ drainOff s = true ∧ s.diIrqEnabled = false
  | .stopConvert => s.coord = .active ∧ abortsLanded s = true ∧ drainOff s = true ∧ s.diIrqEnabled = false
  | .stopFlush => s.coord = .active ∧ pipelineStopped s = true ∧ s.diIrqEnabled = false
  | .cancelSlots m => s.coord = .active ∧ acquisitionOff s = true ∧ slotsIdleBelow s m.toNat = true
  | .disableDone => s.coord = .active ∧ acquisitionOff s = true ∧ slotsIdleBelow s 256 = true

theorem coordSound_iff (s : State) : coordSound s = true ↔ PositionSound s.main s := by
  unfold coordSound PositionSound
  cases s.main <;>
    simp only [abortsLanded, Bool.and_eq_true, decide_eq_true_eq, List.isEmpty_iff, Bool.not_eq_true', and_assoc]

theorem positionSound_of_outside {p : MainPos} (hp : p.outsideTransition = true) :
    PositionSound p s ↔ acquisitionAsCoord s = true := by
  cases p <;> first | rfl | cases hp

/-- At every position of the main loop, the other agents keep what holds there. -/
theorem GoesOn.positionSound (h : GoesOn s t) (hslots : IdleSlotsStay s t) {p : MainPos} (hs : PositionSound p s) :
    PositionSound p t := by
  have hcoord {c : Coord} (hc : s.coord = c) : t.coord = c := h.coord.trans hc
  have hirq {b : Bool} (hb : s.diIrqEnabled = b) : t.diIrqEnabled = b := h.delivery.trans hb
  cases p
  case enableIrq =>
    obtain ⟨hc, hoff⟩ := hs
    exact ⟨hcoord hc, h.off hoff⟩
  case startSelect | startTrigger =>
    obtain ⟨hc, hstop, hqueue, hon⟩ := hs
    exact ⟨hcoord hc, h.stopped hstop, h.noItem ((pipelineStopped_iff_parts s).1 hstop).2.2.2 hqueue, hirq hon⟩
  case startConvert =>
    obtain ⟨hc, hrun, hfifo, hone, hdrain, hqueue, hon⟩ := hs
    exact ⟨hcoord hc, h.running.trans hrun, h.noWord hrun hfifo, h.oneBusy hone, h.drainOff hdrain,
      h.noItem hdrain hqueue, hirq hon⟩
  case startDrain =>
    obtain ⟨hc, hon, hdrain, hqueue⟩ := hs
    exact ⟨hcoord hc, h.on hon, h.drainOff hdrain, h.noItem hdrain hqueue⟩
  case enableDone | disableIrq =>
    obtain ⟨hc, hon⟩ := hs
    exact ⟨hcoord hc, h.on hon⟩
  case stopDrain =>
    obtain ⟨hc, hrun, hone, hoff⟩ := hs
    exact ⟨hcoord hc, h.running.trans hrun, h.oneBusy hone, hirq hoff⟩
  case abortRequest | abortTest =>
    obtain ⟨hc, hnot, hdrain, hoff⟩ := hs
    exact ⟨hcoord hc, h.notBoth hnot, h.drainOff hdrain, hirq hoff⟩
  case stopConvert =>
    obtain ⟨hc, hland, hdrain, hoff⟩ := hs
    exact ⟨hcoord hc, h.landed hland, h.drainOff hdrain, hirq hoff⟩
  case stopFlush =>
    obtain ⟨hc, hstop, hoff⟩ := hs
    exact ⟨hcoord hc, h.stopped hstop, hirq hoff⟩
  case cancelSlots | disableDone =>
    obtain ⟨hc, hoff, hidle⟩ := hs
    exact ⟨hcoord hc, h.off hoff, hslots.below hidle⟩
  all_goals exact h.asCoord hs

/-! ## Operations and the sub-steps of the host's writes -/

/-- An operation leaves the main loop where it is, or begins at idle and leads nowhere into a transition. -/
theorem OperationStep.main_eq (h : OperationStep s i t) :
    t.main = s.main ∨ s.main.outsideTransition = true ∧ t.main.outsideTransition = true := by
  have hout (hfree : mainFree s = true) : s.main.outsideTransition = true := by
    rw [((mainFree_iff s).1 hfree).1]
    rfl
  cases h
  case wrDoSet hfree | wrDoClear hfree | wrDoToggle hfree | wrDoState hfree | wrPtStart hfree | wrPtStop hfree
      | updateEmpty hfree _ =>
    exact .inr ⟨hout hfree, rfl⟩
  case wrPwmCfg hfree _ | wrPwmStop hfree _ | updatePop hfree _ => exact .inr ⟨hout hfree, rfl⟩
  all_goals exact .inl rfl

/-- Between two positions outside the transitions. -/
theorem GoesOn.positionSound_outside (h : GoesOn s t) {p q : MainPos} (hp : p.outsideTransition = true)
    (hq : q.outsideTransition = true) (hs : PositionSound p s) : PositionSound q t :=
  (positionSound_of_outside hq).2 (h.asCoord ((positionSound_of_outside hp).1 hs))

theorem OperationStep.coordSound (h : OperationStep s i t) (hs : coordSound s = true) : coordSound t = true := by
  rw [coordSound_iff] at hs ⊢
  rcases h.goesOn_or_reset with hgoes | ⟨hidle, rfl⟩
  · rcases h.main_eq with hmain | ⟨hms, hmt⟩
    · exact hmain ▸ hgoes.positionSound h.idleSlotsStay hs
    · exact hgoes.positionSound_outside hms hmt hs
  · exact (positionSound_of_outside (by rw [resetEngine, hidle]; rfl)).2 rfl

theorem WriteSubStep.main_outside (h : WriteSubStep s t) :
    s.main.outsideTransition = true ∧ t.main.outsideTransition = true := by
  cases h <;> exact ⟨by simp only [*, MainPos.outsideTransition], rfl⟩

theorem WriteSubStep.coordSound (h : WriteSubStep s t) (hs : coordSound s = true) : coordSound t = true := by
  rw [coordSound_iff] at hs ⊢
  exact h.goesOn.positionSound_outside h.main_outside.1 h.main_outside.2 hs

/-! ## The sub-steps of the Coordinator -/

/-- Cancelling slot `m` makes one more slot idle. -/
theorem slotsIdleBelow_cancelSlot {m : Byte} (h : slotsIdleBelow s m.toNat = true) :
    slotsIdleBelow (cancelSlot m s) (m.toNat + 1) = true := by
  simp only [slotsIdleBelow, List.all_eq_true, Bool.not_eq_true', List.mem_range] at h ⊢
  intro k hk
  rw [slot_cancelSlot]
  split
  case isTrue => rfl
  case isFalse hne =>
    rcases Nat.lt_succ_iff_lt_or_eq.1 hk with hlt | rfl
    · exact h k hlt
    · simpa using hne

theorem cancelSlot_acquisitionOff (m : Byte) (s : State) : acquisitionOff (cancelSlot m s) = acquisitionOff s := by
  simp [acquisitionOff, pipelineStopped, chanAIdle, chanBIdle]

/-- The Coordinator's evaluation begins the transition that its state and the flag ask for, or none. -/
theorem positionSound_coordNext (hs : acquisitionAsCoord s = true) : PositionSound (coordNext s) s := by
  unfold coordNext
  unfold acquisitionAsCoord at hs
  split
  case h_1 hc _ => rw [hc] at hs; exact ⟨hc, hs⟩
  case h_2 hc _ => rw [hc] at hs; exact ⟨hc, hs⟩
  all_goals exact hs

/-- Each sub-step of a transition brings what holds at its position to what holds at the next. -/
theorem TransitionSubStep.coordSound (h : TransitionSubStep s t) (hs : coordSound s = true) : coordSound t = true := by
  rw [coordSound_iff] at hs ⊢
  cases h with
  | coordEval hm => rw [hm] at hs; exact positionSound_coordNext hs
  | enableIrq hm =>
    rw [hm] at hs
    obtain ⟨hc, hoff⟩ := hs
    obtain ⟨hstop, hqueue, -⟩ := (acquisitionOff_iff s).1 hoff
    exact ⟨hc, hstop, hqueue, rfl⟩
  | startSelect hm => rw [hm] at hs; exact hs
  | startTrigger hm =>
    rw [hm] at hs
    obtain ⟨hc, hstop, hqueue, hirq⟩ := hs
    obtain ⟨hland, hrun, hfifo, hdrain⟩ := (pipelineStopped_iff_parts s).1 hstop
    obtain ⟨⟨hA, hreqA⟩, -, hreqB⟩ := (abortsLanded_iff s).1 hland
    have hone : oneChannelBusy ((Machine.startTrigger s).goto .startConvert) = true := by
      rw [oneChannelBusy_iff]
      exact ⟨by rw [State.goto_chA, Machine.startTrigger, hA]; exact nofun, hreqA, hreqB⟩
    exact ⟨hc, hrun, hfifo, hone, hdrain, hqueue, hirq⟩
  | startConvert hm =>
    rw [hm] at hs
    obtain ⟨hc, -, -, hone, hdrain, hqueue, hirq⟩ := hs
    exact ⟨hc, (acquisitionOn_iff _).2 ⟨rfl, hone, hirq⟩, hdrain, hqueue⟩
  | startDrain hm =>
    rw [hm] at hs
    obtain ⟨hc, hon, -, -⟩ := hs
    exact ⟨hc, hon⟩
  | enableDone hm =>
    rw [hm] at hs
    exact hs.2
  | disableIrq hm =>
    rw [hm] at hs
    obtain ⟨hc, hon⟩ := hs
    obtain ⟨hrun, hone, -⟩ := (acquisitionOn_iff s).1 hon
    exact ⟨hc, hrun, hone, rfl⟩
  | stopDrain hm =>
    rw [hm] at hs
    obtain ⟨hc, -, hone, hirq⟩ := hs
    have hnot : (s.chA.busy && s.chB.busy) = false := by
      obtain ⟨hne, -⟩ := (oneChannelBusy_iff s).1 hone
      cases hA : s.chA.busy <;> cases hB : s.chB.busy <;> simp [hA, hB] at hne ⊢
    exact ⟨hc, hnot, rfl, hirq⟩
  | abortRequest hm => rw [hm] at hs; exact hs
  | abortsLanded hm hland =>
    rw [hm] at hs
    obtain ⟨hc, -, hdrain, hirq⟩ := hs
    exact ⟨hc, hland, hdrain, hirq⟩
  | abortAgain hm => rw [hm] at hs; exact hs
  | stopConvert hm =>
    rw [hm] at hs
    obtain ⟨hc, hland, hdrain, hirq⟩ := hs
    exact ⟨hc, (pipelineStopped_iff_parts _).2 ⟨hland, rfl, rfl, hdrain⟩, hirq⟩
  | stopFlush hm =>
    rw [hm] at hs
    obtain ⟨hc, hstop, hirq⟩ := hs
    exact ⟨hc, (acquisitionOff_iff _).2 ⟨hstop, rfl, hirq⟩, rfl⟩
  | cancelSlot m hm hmore =>
    rw [hm] at hs
    obtain ⟨hc, hoff, hidle⟩ := hs
    have hnext : (m + 1).toNat = m.toNat + 1 := by
      have hne : m.toNat ≠ 255 := fun h => hmore (BitVec.eq_of_toNat_eq h)
      have hlt := m.isLt
      rw [BitVec.toNat_add]
      show (m.toNat + 1) % 256 = m.toNat + 1
      omega
    refine ⟨(cancelSlot_coord m s).trans hc, (cancelSlot_acquisitionOff m s).trans hoff, ?_⟩
    rw [hnext]
    exact slotsIdleBelow_cancelSlot hidle
  | cancelLast hm =>
    rw [hm] at hs
    obtain ⟨hc, hoff, hidle⟩ := hs
    exact ⟨(cancelSlot_coord 255 s).trans hc, (cancelSlot_acquisitionOff 255 s).trans hoff,
      slotsIdleBelow_cancelSlot hidle⟩
  | disableDone hm =>
    rw [hm] at hs
    exact hs.2.1

/-! ## Channel A's cell and the timer of a callback in flight (R44, R45) -/

theorem OperationStep.channelsSound (h : OperationStep s i t) (hs : channelsSound s = true) :
    channelsSound t = true := by
  obtain ⟨hcell, hcb⟩ := (channelsSound_iff s).1 hs
  rw [channelsSound_iff]
  cases h
  case reset => exact ⟨nofun, fun h => absurd rfl h⟩
  case dmaAXfer w rest hbusy hlt _ =>
    refine ⟨fun h => ?_, hcb⟩
    have hne : s.chA.idx + 1 ≠ 3 := by simpa [hbusy] using h
    exact nextCell_lt s.chA.idx hlt hne
  case dmaBXfer => exact ⟨fun _ => show (0 : Fin 4) < 3 by decide, hcb⟩
  case abortLandA => exact ⟨nofun, hcb⟩
  case drainEnter => exact ⟨hcell, fun _ => rfl⟩
  case drainSelfCancel | drainPush => exact ⟨hcell, fun h => absurd rfl h⟩
  case drainRead hsnap =>
    refine ⟨hcell, fun _ => hcb ?_⟩
    rintro hno
    simp [hno, DrainCb.isSnap] at hsnap
  all_goals exact ⟨hcell, hcb⟩

theorem TransitionSubStep.channelsSound (h : TransitionSubStep s t) (hs : channelsSound s = true) :
    channelsSound t = true := by
  obtain ⟨hcell, hcb⟩ := (channelsSound_iff s).1 hs
  rw [channelsSound_iff]
  cases h
  case startDrain => exact ⟨hcell, fun _ => rfl⟩
  case stopDrain => exact ⟨hcell, fun h => absurd rfl h⟩
  case cancelSlot | cancelLast => simpa using ⟨hcell, hcb⟩
  all_goals exact ⟨hcell, hcb⟩

end

/-- Settles O51: the position's part over what a step can do, and the channels' part likewise. -/
theorem everyStepKeepsThePipelineSound : Obligations.EveryStepKeepsThePipelineSound := by
  unfold Obligations.EveryStepKeepsThePipelineSound
  intro s t h
  refine step_keeps (Inv := fun u => pipelineSound u = true) (fun _ => id) (fun u v i hop hu => ?_)
    (fun u v hwrite hu => ?_) (fun u v htrans hu => ?_) h
  all_goals
    obtain ⟨hcoord, hchannels⟩ := (pipelineSound_iff u).1 hu
    rw [pipelineSound_iff]
  · exact ⟨hop.coordSound hcoord, hop.channelsSound hchannels⟩
  · refine ⟨hwrite.coordSound hcoord, ?_⟩
    rw [hwrite.frame]
    exact hchannels
  · exact ⟨htrans.coordSound hcoord, htrans.channelsSound hchannels⟩

end Sys2Proof.Machine

/-! # The output stream (10_state.md R48, 42_coordinator.md R190)

Every step appends; what it appends holds an analog or digital-input event only where one may be raised. -/

namespace Sys2Proof.Machine

section
variable {s t : State} {i : Instr}

/-- An analog or a digital-input event may be raised: an item waits for an UPDATE, or input delivery is on. -/
def MayReport (s : State) : Prop := (s.main = .idle ∧ s.queue ≠ []) ∨ s.diIrqEnabled = true

/-- Neither an analog nor a digital-input event. -/
def NoAcquisitionEvent (added : List Reply) : Prop :=
  ∀ ts v, .event .analog ts v ∉ added ∧ .event .diState ts v ∉ added

theorem noAcquisitionEvent_nil : NoAcquisitionEvent [] := fun _ _ => ⟨nofun, nofun⟩

/-- The step appends to the output stream, and reports of the acquisition only where it may. -/
def Appends (s t : State) : Prop := ∃ added, t.out = s.out ++ added ∧ (NoAcquisitionEvent added ∨ MayReport s)

theorem Appends.nothing (h : t.out = s.out) : Appends s t :=
  ⟨[], by rw [h, List.append_nil], .inl noAcquisitionEvent_nil⟩

theorem Appends.reply {r : Reply} (h : t.out = s.out ++ [r])
    (hr : ∀ ts v, r ≠ .event .analog ts v ∧ r ≠ .event .diState ts v) : Appends s t :=
  ⟨[r], h, .inl fun ts v => by simpa [eq_comm] using hr ts v⟩

theorem Appends.cancelSlot (m : Byte) (h : t.out = (Machine.cancelSlot m s).out) : Appends s t := by
  refine ⟨_, h.trans (cancelSlot_out m s), .inl fun ts v => ?_⟩
  split <;> simp

theorem OperationStep.appends (h : OperationStep s i t) : Appends s t := by
  cases h
  case read | wrDiState | wrAnalog | ptFire | ptEnd => exact .reply rfl fun _ _ => ⟨nofun, nofun⟩
  case ptEndLast => exact ⟨_, rfl, .inl fun ts v => by simp⟩
  case updatePop item rest hfree hq =>
    exact ⟨_, rfl, .inr (.inl ⟨((mainFree_iff s).1 hfree).1, by simp [hq]⟩)⟩
  case diEdge hirq _ _ => exact ⟨_, rfl, .inr (.inr hirq)⟩
  all_goals exact .nothing rfl

theorem WriteSubStep.appends (h : WriteSubStep s t) : Appends s t := by
  cases h
  case ack | pwmReject | pwmRun => exact .reply rfl fun _ _ => ⟨nofun, nofun⟩
  case ptStartCancel m w p c _ => exact .cancelSlot m rfl
  case ptStopCancel m _ => exact .cancelSlot m rfl
  all_goals exact .nothing rfl

theorem TransitionSubStep.appends (h : TransitionSubStep s t) : Appends s t := by
  cases h
  case cancelSlot m _ _ => exact .cancelSlot m rfl
  case cancelLast => exact .cancelSlot 255 rfl
  all_goals exact .nothing rfl

theorem step_appends (h : step s = .next t) : Appends s t := by
  rcases step_cases h with rfl | ⟨i, -, hop⟩ | hwrite | htrans
  · exact .nothing rfl
  · exact hop.appends
  · exact hwrite.appends
  · exact htrans.appends

/-- In a sound state with the Coordinator inactive and delivery off no such event may be raised. -/
theorem not_mayReport_of_inactive (hs : pipelineSound s = true) (hc : s.coord = .inactive)
    (hirq : s.diIrqEnabled = false) : ¬ MayReport s := by
  rintro (⟨hidle, hqueue⟩ | hon)
  · have hposition := (coordSound_iff s).1 ((pipelineSound_iff s).1 hs).1
    rw [hidle, positionSound_of_outside rfl, acquisitionAsCoord, hc] at hposition
    exact hqueue ((acquisitionOff_iff s).1 hposition).2.1
  · exact Bool.false_ne_true (hirq.symm.trans hon)

end

/-- Settles O53. -/
theorem outputIsAppendOnly : Obligations.OutputIsAppendOnly := by
  unfold Obligations.OutputIsAppendOnly
  intro s t h
  obtain ⟨added, hout, -⟩ := step_appends h
  exact ⟨added, hout⟩

/-- Settles O59: what waits for an UPDATE is nothing, and delivery is off. -/
theorem noAcquisitionEventWhileInactive : Obligations.NoAcquisitionEventWhileInactive := by
  unfold Obligations.NoAcquisitionEventWhileInactive
  intro s t hs hc hirq h
  obtain ⟨added, hout, hadded⟩ := step_appends h
  exact ⟨added, hout, hadded.resolve_right (not_mayReport_of_inactive hs hc hirq)⟩

end Sys2Proof.Machine

/-! # Who writes what (20_memory.md R65, 60_exceptions.md R263, 10_state.md R25, R39) -/

namespace Sys2Proof.Machine

section
variable {s t : State} {i : Instr} {k : Field}

/-! ## The pins (R39) -/

/-- The operations that write the output pins. -/
def WritesPins (i : Instr) : Prop :=
  (∃ v, i = .wrDoSet v) ∨ (∃ v, i = .wrDoClear v) ∨ (∃ v, i = .wrDoToggle v) ∨ (∃ v, i = .wrDoState v) ∨
    (∃ m, i = .ptFire m) ∨ (∃ m, i = .ptEnd m) ∨ i = .reset

theorem OperationStep.doPins_eq (h : OperationStep s i t) : t.doPins = s.doPins ∨ WritesPins i := by
  cases h
  case wrDoSet | wrDoClear | wrDoToggle | wrDoState | ptFire | ptEnd | ptEndLast | reset =>
    right
    simp [WritesPins]
  all_goals exact .inl rfl

/-- Settles O54: no sub-step of the main loop writes the pins. -/
theorem onlyTheListedStepsChangeThePins : Obligations.OnlyTheListedStepsChangeThePins := by
  unfold Obligations.OnlyTheListedStepsChangeThePins
  intro s t h hne
  rcases step_cases h with rfl | ⟨i, hturn, hop⟩ | hwrite | htrans
  · exact absurd rfl hne
  · obtain ⟨frame, rest, hsched, hdecode⟩ := exists_frame_of_fetch hturn
    exact ⟨frame, rest, i, hsched, hdecode, hop.doPins_eq.resolve_left hne⟩
  · exact absurd (by rw [hwrite.frame]; rfl) hne
  · exact absurd (by rw [htrans.frame]; rfl) hne

/-! ## The hardware and the callbacks (R263) -/

theorem contextOf_readOp (k : Field) : contextOf (readOp k) = .mainLoop := by cases k <;> rfl

theorem OperationStep.hardware_frame (h : OperationStep s i t) (hctx : contextOf i = .hardware) :
    t = { s with now := t.now, adc := t.adc, buf := t.buf, chA := t.chA, chB := t.chB, diPins := t.diPins } ∧
    (t.buf ≠ s.buf → i = .dmaAXfer) := by
  cases h <;> try cases hctx
  case read k _ => rw [contextOf_readOp] at hctx; cases hctx
  case dmaAXfer => exact ⟨rfl, fun _ => rfl⟩
  all_goals exact ⟨rfl, fun h => absurd rfl h⟩

/-- Settles O55: the frame, and the bytes and slots that lie in it. -/
theorem hardwareStepsTouchNoSoftwareState : Obligations.HardwareStepsTouchNoSoftwareState := by
  unfold Obligations.HardwareStepsTouchNoSoftwareState
  intro i s t hctx h
  rcases exec_next h with rfl | hop
  · exact ⟨rfl, fun _ => rfl, fun h => absurd rfl h, fun _ => rfl⟩
  · obtain ⟨hframe, hbuf⟩ := hop.hardware_frame hctx
    refine ⟨hframe, fun a => ?_, hbuf, fun m => ?_⟩ <;>
    · rw [hframe]
      rfl

theorem OperationStep.callback_frame (h : OperationStep s i t) (hctx : contextOf i = .interrupt) :
    t = { s with
      slots := t.slots, doPins := t.doPins, drain := t.drain, queue := t.queue, out := t.out,
      regs := { s.regs with diState := t.regs.diState, doSet := t.regs.doSet, doClear := t.regs.doClear,
                            ptStop := t.regs.ptStop } } := by
  cases h <;> try cases hctx
  case read k _ => rw [contextOf_readOp] at hctx; cases hctx
  all_goals rfl

/-- A callback writes no slot but the one it serves. -/
theorem OperationStep.callback_slot (h : OperationStep s i t) (hctx : contextOf i = .interrupt) (n : Byte) :
    t.slot n = s.slot n ∨ i = .ptFire n ∨ i = .ptEnd n := by
  have hother {m : Byte} {y : Slot} (ht : t.slots = s.poolWith m y) : t.slot n = s.slot n ∨ n = m := by
    by_cases hn : n = m
    · exact .inr hn
    · rw [State.slot_of_poolWith ht, if_neg hn]
      exact .inl rfl
  cases h <;> try cases hctx
  case read k _ => rw [contextOf_readOp] at hctx; cases hctx
  case ptFire => exact (hother rfl).imp_right fun h => .inl (by rw [h])
  case ptEnd | ptEndLast => exact (hother rfl).imp_right fun h => .inr (by rw [h])
  all_goals exact .inl rfl

/-- Settles O56: the frame, and the one slot. -/
theorem callbacksTouchOnlyTheirOwnState : Obligations.CallbacksTouchOnlyTheirOwnState := by
  unfold Obligations.CallbacksTouchOnlyTheirOwnState
  intro i s t hctx h
  rcases exec_next h with rfl | hop
  · exact ⟨rfl, fun m hne => absurd rfl hne⟩
  · exact ⟨hop.callback_frame hctx, fun m hne => (hop.callback_slot hctx m).resolve_left hne⟩

/-! ## The main loop (R25, R228) -/

theorem OperationStep.mainLoop_keeps (h : OperationStep s i t) (hctx : contextOf i = .mainLoop) :
    t.now = s.now ∧ t.diPins = s.diPins ∧ t.eventsEnabled = s.eventsEnabled ∧ t.buf = s.buf ∧ t.cfg = s.cfg ∧
    t.sched = s.sched ∧ (t.pwm ≠ s.pwm → i = .reset) := by
  cases h <;> try cases hctx
  case reset => exact ⟨rfl, rfl, rfl, rfl, rfl, rfl, fun _ => rfl⟩
  all_goals exact ⟨rfl, rfl, rfl, rfl, rfl, rfl, fun h => absurd rfl h⟩

theorem WriteSubStep.pwm_eq (h : WriteSubStep s t) :
    t.pwm = s.pwm ∨ s.main = .pwmHalt ∨ ∃ f d, s.main = .pwmApply f d := by
  cases h
  case pwmRun f d hm _ => exact .inr (.inr ⟨f, d, hm⟩)
  case pwmHalt hm => exact .inr (.inl hm)
  case ptStartCancel m w p c _ => exact .inl (cancelSlot_pwm m s)
  case ptStopCancel m _ => exact .inl (cancelSlot_pwm m s)
  all_goals exact .inl rfl

/-- A turn of the main loop: nothing, or a sub-step. -/
theorem mainTurn_cases (h : mainTurn s = .next t) : t = s ∨ WriteSubStep s t ∨ TransitionSubStep s t := by
  rcases mainTurn_next h with ⟨-, ht⟩ | ⟨-, hsub⟩
  · exact .inl ht
  · exact subStep_next hsub

/-- Settles O57: the frames of its operations and of its sub-steps. -/
theorem mainLoopKeepsItsHandsOff : Obligations.MainLoopKeepsItsHandsOff := by
  unfold Obligations.MainLoopKeepsItsHandsOff
  refine ⟨fun i s t hctx h => ?_, fun s t h => ?_⟩
  · rcases exec_next h with rfl | hop
    · exact ⟨rfl, rfl, rfl, rfl, rfl, rfl, fun h => absurd rfl h⟩
    · exact hop.mainLoop_keeps hctx
  · rcases mainTurn_cases h with rfl | hwrite | htrans
    · exact ⟨rfl, rfl, rfl, rfl, rfl, rfl, fun h => absurd rfl h⟩
    · have hpwm := hwrite.pwm_eq
      rw [hwrite.frame]
      exact ⟨rfl, rfl, rfl, rfl, rfl, rfl, hpwm.resolve_left⟩
    · rw [htrans.frame]
      exact ⟨rfl, rfl, rfl, rfl, rfl, rfl, fun h => absurd rfl h⟩

/-! ## The bytes of the register block (R65) -/

theorem fieldValue_congr (hregs : t.regs = s.regs) (hpins : t.doPins = s.doPins) (k : Field) :
    fieldValue t k = fieldValue s k := by
  cases k <;> simp only [fieldValue, hregs, hpins]

theorem fieldValue_of_ptStop_stored {v : Byte} (hregs : t.regs = { s.regs with ptStop := v })
    (hpins : t.doPins = s.doPins) (hk : k ≠ .ptStop) : fieldValue t k = fieldValue s k := by
  cases k
  case ptStop => exact absurd rfl hk
  all_goals simp only [fieldValue, hregs, hpins]

/-- An operation stores to no field but those that `fieldsStored` lists. -/
theorem OperationStep.fieldValue_eq (h : OperationStep s i t) (hk : k ∉ fieldsStored i) :
    fieldValue t k = fieldValue s k := by
  cases h
  case wrDoSet | wrDoClear | wrDoToggle | wrDoState | wrPtStart | wrPtStop | wrPwmCfg | wrPwmStop | updatePop
      | ptFire | ptEnd | ptEndLast | diEdge =>
    cases k <;> first
      | rfl
      | exact absurd (by simp [fieldsStored]) hk
  case reset => exact absurd (by cases k <;> simp [fieldsStored]) hk
  all_goals exact fieldValue_congr rfl rfl k

theorem OperationStep.cfg_eq (h : OperationStep s i t) : t.cfg = s.cfg := by cases h <;> rfl

/-- A sub-step of the main loop stores to no field but `PT_STOP`, and to that only in a cancel. -/
theorem mainTurn_regs (h : mainTurn s = .next t) :
    t.cfg = s.cfg ∧ t.doPins = s.doPins ∧ t.regs = { s.regs with ptStop := t.regs.ptStop } ∧
    (t.regs = s.regs ∨ (∃ m w p c, s.main = .ptStartCancel m w p c) ∨ (∃ m, s.main = .ptStopCancel m) ∨
      ∃ m, s.main = .cancelSlots m) := by
  rcases mainTurn_cases h with rfl | hwrite | htrans
  · exact ⟨rfl, rfl, rfl, .inl rfl⟩
  · refine ⟨by rw [hwrite.frame], by rw [hwrite.frame], by rw [hwrite.frame], ?_⟩
    cases hwrite
    case ptStartCancel m w p c hm => exact .inr (.inl ⟨m, w, p, c, hm⟩)
    case ptStopCancel m hm => exact .inr (.inr (.inl ⟨m, hm⟩))
    all_goals exact .inl rfl
  · refine ⟨by rw [htrans.frame], by rw [htrans.frame], by rw [htrans.frame], ?_⟩
    cases htrans
    case cancelSlot m hm _ => exact .inr (.inr (.inr ⟨m, hm⟩))
    case cancelLast hm => exact .inr (.inr (.inr ⟨255, hm⟩))
    all_goals exact .inl rfl

/-- Settles O58: the fields outside the ones stored to are kept, and so are their bytes. -/
theorem onlyStoredFieldsChangeTheirBytes : Obligations.OnlyStoredFieldsChangeTheirBytes := by
  unfold Obligations.OnlyStoredFieldsChangeTheirBytes
  refine ⟨fun i s t a h ha => ?_, fun s t a h ha => ?_, fun s t a h hstart hstop hcancel => ?_⟩
  · rcases exec_next h with rfl | hop
    · rfl
    · exact memByte_of_fieldsKept hop.cfg_eq (fun k hk => hop.fieldValue_eq hk) ha
  · obtain ⟨hcfg, hpins, hregs, -⟩ := mainTurn_regs h
    refine memByte_of_fieldsKept (ks := [.ptStop]) hcfg (fun k hk => ?_) (fun k hk => ?_)
    · exact fieldValue_of_ptStop_stored hregs hpins (by simpa using hk)
    · obtain rfl := List.mem_singleton.1 hk
      have hwidth : fieldWidth .ptStop = 1 := rfl
      omega
  · obtain ⟨hcfg, hpins, -, hkept | ⟨m, w, p, c, hm⟩ | ⟨m, hm⟩ | ⟨m, hm⟩⟩ := mainTurn_regs h
    · exact memByte_of_fieldsKept (ks := []) hcfg (fun k _ => fieldValue_congr hkept hpins k) nofun
    · exact absurd hm (hstart m w p c)
    · exact absurd hm (hstop m)
    · exact absurd hm (hcancel m)

end
end Sys2Proof.Machine

/-! # Turns of the main loop without interruption (00_scope.md R11, 60_exceptions.md R254) -/

namespace Sys2Proof.Machine

section
variable {s u : State} {k : Nat} {p : MainPos}

theorem mainTurn_eq_subStep (hsnap : s.drain.cb.isSnap = false) : mainTurn s = subStep s := by
  rw [mainTurn, if_pos ((mainMayRun_iff s).2 hsnap)]

/-- The first of several turns is a sub-step. -/
theorem mainTurns_succ (hsnap : s.drain.cb.isSnap = false) (hsub : subStep s = .next u) :
    mainTurns (k + 1) s = mainTurns k u := by
  rw [mainTurns, mainTurn_eq_subStep hsnap, hsub, andThen_next]

theorem goto_self (hm : s.main = p) : s.goto p = s := by
  subst hm
  rfl

end
end Sys2Proof.Machine

/-! # Cancelling and arming by the host (40_pulse_train.md R111 to R114) -/

namespace Sys2Proof.Machine

section
variable {s : State}

theorem slot_cancelSlot_active (m : Byte) (s : State) : ((cancelSlot m s).slot m).active = false := by
  rw [slot_cancelSlot]
  split
  case isTrue => rfl
  case isFalse h => simpa using h

/-- Arming a slot just cancelled replaces it as if it had not been. -/
theorem poolWith_cancelSlot (m : Byte) (y : Slot) : (cancelSlot m s).poolWith m y = s.poolWith m y := by
  rcases cancelSlot_cases m s with ⟨-, h⟩ | ⟨-, h⟩
  · rw [h]
  · rw [h]
    exact State.poolWith_poolWith rfl y

/-- WR_PT_START after its store: cancel, arm, acknowledge. -/
theorem mainTurns_ptStart {m : Byte} {w p c : Word} (hm : s.main = .ptStartCancel m w p c)
    (hsnap : s.drain.cb.isSnap = false) :
    mainTurns 3 s = .next (((armSlot m w p c (cancelSlot m s)).reply (.writeAck .ptStart)).goto .idle) := by
  have hcancel : subStep s = .next ((cancelSlot m s).goto (.ptStartArm m w p c)) := by rw [subStep, hm]
  have hdrain : (cancelSlot m s).drain.cb.isSnap = false := by rwa [cancelSlot_drain]
  rw [mainTurns_succ hsnap hcancel, mainTurns_succ (by exact hdrain) rfl, mainTurns_succ (by exact hdrain) rfl]
  rfl

/-- WR_PT_STOP after its store: cancel, acknowledge. -/
theorem mainTurns_ptStop {m : Byte} (hm : s.main = .ptStopCancel m) (hsnap : s.drain.cb.isSnap = false) :
    mainTurns 2 s = .next (((cancelSlot m s).reply (.writeAck .ptStop)).goto .idle) := by
  have hcancel : subStep s = .next ((cancelSlot m s).goto (.ack .ptStop)) := by rw [subStep, hm]
  have hdrain : (cancelSlot m s).drain.cb.isSnap = false := by rwa [cancelSlot_drain]
  rw [mainTurns_succ hsnap hcancel, mainTurns_succ (by exact hdrain) rfl]
  rfl

end

/-- Settles O16: the store, then the cancel by what it writes, the arming and the acknowledgement. -/
theorem ptStartWriteCancelsAndArms : Obligations.PtStartWriteCancelsAndArms := by
  unfold Obligations.PtStartWriteCancelsAndArms
  intro s p hidle hsnap
  have hstore : exec (.wrPtStart p) s = .next (ptStartStore p s) :=
    guarded_of_true ((mainFree_iff s).2 ⟨hidle, hsnap⟩) _ _
  refine ⟨hstore, ?_⟩
  rw [execThenTurns, hstore, andThen_next, mainTurns_ptStart rfl (by exact hsnap), armSlot, State.setSlot,
    poolWith_cancelSlot, cancelSlot_frame, cancelSlot_regs, cancelSlot_out]
  rw [← hidle]
  rfl

/-- Settles O17: the store, then the cancel of an active or an idle slot. -/
theorem ptStopWriteCancels : Obligations.PtStopWriteCancels := by
  unfold Obligations.PtStopWriteCancels
  intro s m hidle hsnap
  have hstore : exec (.wrPtStop m) s = .next (ptStopStore m s) :=
    guarded_of_true ((mainFree_iff s).2 ⟨hidle, hsnap⟩) _ _
  have hturns : execThenTurns (.wrPtStop m) 2 s =
      .next (((cancelSlot m (ptStopStore m s)).reply (.writeAck .ptStop)).goto .idle) := by
    rw [execThenTurns, hstore, andThen_next, mainTurns_ptStop rfl (by exact hsnap)]
  refine ⟨hstore, fun hactive => ?_, fun hoff => ?_⟩
  · rw [hturns, cancelSlot_of_active (by exact hactive), ← hidle]
    simp only [State.reply, List.append_assoc, List.cons_append, List.nil_append]
    rfl
  · rw [hturns, cancelSlot_of_idle (by exact hoff), ← hidle]
    rfl

/-- Settles O18: the slot is idle after the first cancel. -/
theorem cancelIsIdempotent : Obligations.CancelIsIdempotent := by
  unfold Obligations.CancelIsIdempotent
  intro s m
  have hidle := slot_cancelSlot_active m s
  refine ⟨cancelSlot_of_idle hidle, hidle, fun n hn => ?_, cancelSlot_doPins m s⟩
  rw [slot_cancelSlot, if_neg fun h => hn h.1]

end Sys2Proof.Machine

/-! # The Coordinator's transitions, uninterrupted (42_coordinator.md R183 to R186, 41_sampling.md R155 to R157) -/

namespace Sys2Proof.Machine

section
variable {s : State}

theorem subStep_coordEval (hm : s.main = .coordEval) : subStep s = .next (s.goto (coordNext s)) := by
  rw [subStep, hm]

theorem subStep_startSelect (hm : s.main = .startSelect) (hc : s.configured = true) :
    subStep s = .next ((startSelect s).goto .startTrigger) := by
  rw [subStep, hm]
  exact if_pos hc

end

/-- Settles O37: nothing is popped, and the evaluation asks for no transition. -/
theorem updateWithoutChangeDoesNothing : Obligations.UpdateWithoutChangeDoesNothing := by
  unfold Obligations.UpdateWithoutChangeDoesNothing
  intro s hidle hsnap hqueue hflag
  have hnext : coordNext (s.goto .coordEval) = .idle := by
    rw [coordNext, State.goto_coord, State.goto_eventsEnabled]
    cases hc : s.coord <;> cases he : s.eventsEnabled <;> simp [hc, he] at hflag ⊢
  rw [execThenTurns, exec_update_of_free ((mainFree_iff s).2 ⟨hidle, hsnap⟩), popSample_of_nil hqueue, andThen_next,
    mainTurns_succ (by exact hsnap) (subStep_coordEval rfl), hnext]
  exact congrArg _ (goto_self hidle)

/-- Settles O38: seven sub-steps, none of which leaves the main loop held. -/
theorem enableTransitionStartsAcquisition : Obligations.EnableTransitionStartsAcquisition := by
  unfold Obligations.EnableTransitionStartsAcquisition
  intro s hm hsnap hc he hconf
  have hnext : coordNext s = .enableIrq := by rw [coordNext, hc, he]
  calc mainTurns 7 s
    _ = mainTurns 6 (s.goto .enableIrq) := by rw [mainTurns_succ hsnap (subStep_coordEval hm), hnext]
    _ = mainTurns 5 { s with diIrqEnabled := true, main := .startSelect } := mainTurns_succ hsnap rfl
    _ = mainTurns 4 { s with diIrqEnabled := true, adc := { s.adc with rr := 0 }, main := .startTrigger } :=
      mainTurns_succ hsnap (subStep_startSelect rfl hconf)
    _ = mainTurns 3 { s with
          diIrqEnabled := true, adc := { s.adc with rr := 0 }, chB := { s.chB with busy := true },
          main := .startConvert } := mainTurns_succ hsnap rfl
    _ = mainTurns 2 { s with
          diIrqEnabled := true, adc := { running := true, rr := 0, fifo := s.adc.fifo },
          chB := { s.chB with busy := true }, main := .startDrain } := mainTurns_succ hsnap rfl
    _ = mainTurns 1 { s with
          diIrqEnabled := true, adc := { running := true, rr := 0, fifo := s.adc.fifo },
          chB := { s.chB with busy := true }, drain := { s.drain with target := some (s.now + s.cfg.drainPeriodUs) },
          main := .enableDone } := mainTurns_succ hsnap rfl
    _ = _ := mainTurns_succ hsnap rfl

/-- Settles O41: the record, and the two refusals. -/
theorem configureIsRecordedAndRequired : Obligations.ConfigureIsRecordedAndRequired := by
  unfold Obligations.ConfigureIsRecordedAndRequired
  refine ⟨fun s hidle hsnap => ⟨fun hstop => ?_, fun hrun => ?_⟩, fun s hm hsnap hc he hconf => ?_⟩
  · have hfree := (mainFree_iff s).2 ⟨hidle, hsnap⟩
    rw [exec, execConfigure, hfree, hstop]
    rfl
  · have hfree := (mainFree_iff s).2 ⟨hidle, hsnap⟩
    rw [exec, execConfigure, hfree, hrun]
    rfl
  · have hnext : coordNext s = .enableIrq := by rw [coordNext, hc, he]
    have hrefused (u : State) (hu : u.main = .startSelect) (huc : u.configured = false) :
        subStep u = .refused .startUnconfigured := by
      rw [subStep, hu]
      exact if_neg (by simp [huc])
    rw [mainTurns_succ hsnap (subStep_coordEval hm), hnext, mainTurns_succ (by exact hsnap) rfl, mainTurns,
      mainTurn_eq_subStep (by exact hsnap), hrefused _ rfl (by exact hconf), andThen_refused]

end Sys2Proof.Machine

/-! # The PWM level (44_pwm.md R222, R224) -/

namespace Sys2Proof.Machine

/-- Settles O45: the level is a floor of the clamped share. -/
theorem pwmOnTimeIsWithinOneStep : Obligations.PwmOnTimeIsWithinOneStep := by
  unfold Obligations.PwmOnTimeIsWithinOneStep
  intro s t f d hpwm hidle hsnap hf h
  rw [execThenTurns_wrPwmCfg hpwm ((mainFree_iff s).2 ⟨hidle, hsnap⟩), pwmApply, if_neg hf, pwmLevel_clampDuty] at h
  cases h
  generalize pwmTop _ f = top
  show 100 * (top * min d.toNat 100 / 100) ≤ top * min d.toNat 100 ∧
    top * min d.toNat 100 < 100 * (top * min d.toNat 100 / 100 + 1) ∧ top * min d.toNat 100 / 100 ≤ top ∧
    (100 ≤ d.toNat → top * min d.toNat 100 / 100 = top) ∧ (d = 0 → top * min d.toNat 100 / 100 = 0)
  have hle : top * min d.toNat 100 ≤ top * 100 := Nat.mul_le_mul_left top (Nat.min_le_right ..)
  refine ⟨Nat.mul_div_le .., by omega, by omega, fun hfull => ?_, ?_⟩
  · rw [Nat.min_eq_right hfull, Nat.mul_div_cancel _ (by decide)]
  · rintro rfl
    simp

end Sys2Proof.Machine

/-! # Power-on (10_state.md R49, 70_reset_and_hazards.md R281) -/

namespace Sys2Proof.Machine

theorem slot_reset (m : Byte) : State.reset.slot m = Slot.zero := Vector.getElem_replicate ..

/-- Settles O43: power-on is a state written out. -/
theorem powerOnValuesAreTheSpecs : Obligations.PowerOnValuesAreTheSpecs := by
  unfold Obligations.PowerOnValuesAreTheSpecs
  refine ⟨fun m => ?_, fun k => ?_, rfl, rfl, rfl, rfl, rfl, rfl, rfl, rfl, rfl, rfl, rfl, by decide, rfl⟩
  · rw [slot_reset]
    exact ⟨rfl, rfl, rfl⟩
  · cases k
    case ptStart => exact .inr (.inl rfl)
    case analog => exact .inr (.inr (.inl rfl))
    case pwmCfg => exact .inr (.inr (.inr rfl))
    all_goals exact .inl rfl

/-- The parameters of `State.reset` are brought into their ranges, whatever the free values are (R7). -/
theorem params_wf : Config.params.wf = true := by
  have hdrain : 0 < Config.params.drainPeriodUs := by
    unfold Config.params
    dsimp only
    split
    case isTrue => decide
    case isFalse h => exact (BitVec.pos_iff_ne_zero _).2 h
  have hwired : Config.params.nDoWired = Config.nDoWiredRaw % 8 + 1 := rfl
  have hinputs : Config.params.nDi = Config.nDiRaw % 8 + 1 := rfl
  simp only [Config.Params.wf, Bool.and_eq_true, decide_eq_true_eq]
  exact ⟨⟨⟨⟨⟨⟨⟨by omega, by omega⟩, by omega⟩, by omega⟩, hdrain⟩, Nat.succ_pos _⟩, Nat.succ_pos _⟩, Nat.succ_pos _⟩

/-- Settles O52: each invariant on the values of power-on. -/
theorem invariantsHoldAtReset : Obligations.InvariantsHoldAtReset := by
  unfold Obligations.InvariantsHoldAtReset
  refine ⟨fun m => ?_, fun m => ?_, ?_, rfl, params_wf⟩
  · rw [slot_reset, slotSound_iff]
    exact ⟨nofun, fun _ => ⟨rfl, rfl⟩, nofun⟩
  · rw [slot_reset]
    exact endsSound_nil rfl
  · have hinputs : inputsSound State.reset = true :=
      (inputsSound_iff _).2 ⟨inputBitsExist_zero _, inputBitsExist_zero _⟩
    exact (dataSound_iff _).2 ⟨hinputs, rfl, (queuesSound_iff _).2 ⟨Nat.zero_le _, Nat.zero_le _⟩, rfl, rfl⟩

end Sys2Proof.Machine

/-! # The disable transition (42_coordinator.md R185, 41_sampling.md R156, R157, R169)

Four sub-steps to the abort's request, the landing, three more to the slots, one sub-step for each of the 256 slots, and
the last. The slots are cancelled one after another, which is a fold over the slot numbers. -/

namespace Sys2Proof.Machine

/-! ## Cancelling a list of slots -/

/-- The slots of a list cancelled, one after another. Irreducible, so that no comparison of two states runs through all
256 of them. -/
@[irreducible] def cancelAll (l : List Byte) (s : State) : State := l.foldl (fun u m => cancelSlot m u) s

/-- The "train stopped" of a slot, if it is active. -/
def stopEvents (s : State) (m : Byte) : List Reply :=
  if (s.slot m).active then [.event .ptStop s.now (.byte (s.slot m).outputMask)] else []

section
variable {s t : State} {l : List Byte} {m n : Byte}

theorem cancelAll_nil (s : State) : cancelAll [] s = s := by rw [cancelAll, List.foldl_nil]

theorem cancelAll_cons (m : Byte) (l : List Byte) (s : State) :
    cancelAll (m :: l) s = cancelAll l (cancelSlot m s) := by
  rw [cancelAll, cancelAll, List.foldl_cons]

theorem cancelAll_frame (l : List Byte) (s : State) :
    cancelAll l s =
      { s with
        slots := (cancelAll l s).slots
        regs := { s.regs with ptStop := (cancelAll l s).regs.ptStop }
        out := (cancelAll l s).out } := by
  induction l generalizing s with
  | nil => rw [cancelAll_nil]
  | cons m l ih => rw [cancelAll_cons, ih, cancelSlot_frame]

/-- A cancel of another slot is not seen. -/
theorem slot_cancelSlot_other (h : n ≠ m) (s : State) : (cancelSlot m s).slot n = s.slot n := by
  rw [slot_cancelSlot, if_neg fun hn => h hn.1]

theorem slot_cancelAll (l : List Byte) (s : State) (n : Byte) :
    (cancelAll l s).slot n = if n ∈ l ∧ (s.slot n).active = true then (s.slot n).cancelled else s.slot n := by
  induction l generalizing s with
  | nil => simp [cancelAll_nil]
  | cons m l ih =>
    rw [cancelAll_cons, ih, slot_cancelSlot]
    by_cases hn : n = m
    · subst hn
      cases h : (s.slot n).active <;> simp [h, Slot.cancelled]
    · simp [hn]

theorem stopEvents_cancelSlot (h : n ≠ m) (s : State) : stopEvents (cancelSlot m s) n = stopEvents s n := by
  rw [stopEvents, slot_cancelSlot_other h, cancelSlot_now, stopEvents]

/-- One event for each active slot, in the order of the list. -/
theorem out_cancelAll (hl : l.Nodup) (s : State) : (cancelAll l s).out = s.out ++ l.flatMap (stopEvents s) := by
  induction l generalizing s with
  | nil => simp [cancelAll_nil]
  | cons m l ih =>
    obtain ⟨hm, hl⟩ := List.nodup_cons.1 hl
    have hrest : l.flatMap (stopEvents (cancelSlot m s)) = l.flatMap (stopEvents s) :=
      List.flatMap_congr fun n hn => stopEvents_cancelSlot (ne_of_mem_of_not_mem hn hm) s
    rw [cancelAll_cons, ih hl, cancelSlot_out, hrest, List.flatMap_cons, List.append_assoc]
    rfl

/-- `PT_STOP` holds the mask of the last active slot of the list. -/
theorem ptStop_cancelAll (hl : l.Nodup) (s : State) :
    (cancelAll l s).regs.ptStop =
      ((l.filter fun m => (s.slot m).active).map fun m => (s.slot m).outputMask).getLastD s.regs.ptStop := by
  induction l generalizing s with
  | nil => rw [cancelAll_nil]; rfl
  | cons m l ih =>
    obtain ⟨hm, hl⟩ := List.nodup_cons.1 hl
    have hslot (n : Byte) (hn : n ∈ l) : (cancelSlot m s).slot n = s.slot n :=
      slot_cancelSlot_other (ne_of_mem_of_not_mem hn hm) s
    have hfilter : (l.filter fun n => ((cancelSlot m s).slot n).active) = l.filter fun n => (s.slot n).active :=
      List.filter_congr fun n hn => by rw [hslot n hn]
    have hmap : ((l.filter fun n => (s.slot n).active).map fun n => ((cancelSlot m s).slot n).outputMask) =
        (l.filter fun n => (s.slot n).active).map fun n => (s.slot n).outputMask :=
      List.map_congr_left fun n hn => by rw [hslot n (List.mem_of_mem_filter hn)]
    rw [cancelAll_cons, ih hl, hfilter, hmap, cancelSlot_regs, List.filter_cons]
    cases (s.slot m).active
    · rfl
    · simp only [if_true, List.map_cons, List.getLastD_cons]

theorem cancelSlot_goto (m : Byte) (p : MainPos) (s : State) : cancelSlot m (s.goto p) = (cancelSlot m s).goto p := by
  unfold cancelSlot
  rw [State.slot_goto]
  split <;> rfl

/-! ## The sub-steps of the cancels -/

theorem slotNumbers_nodup : slotNumbers.Nodup := by
  refine List.Nodup.map_on (fun a ha b hb h => ?_) List.nodup_range
  have hnat : a % 256 = b % 256 := congrArg BitVec.toNat h
  rwa [Nat.mod_eq_of_lt (List.mem_range.1 ha), Nat.mod_eq_of_lt (List.mem_range.1 hb)] at hnat

theorem drop_slotNumbers (m : Byte) : slotNumbers.drop m.toNat = m :: slotNumbers.drop (m.toNat + 1) := by
  rw [List.drop_eq_getElem_cons (by simp [slotNumbers]; omega)]
  simp [slotNumbers]

/-- From slot `m` on, one turn for each slot. -/
theorem mainTurns_cancelSlots {k : Nat} (hk : m.toNat + (k + 1) = 256) (hsnap : s.drain.cb.isSnap = false) :
    mainTurns (k + 1) (s.goto (.cancelSlots m)) =
      .next ((cancelAll (slotNumbers.drop m.toNat) s).goto .disableDone) := by
  induction k generalizing m s with
  | zero =>
    obtain rfl : m = 255 := BitVec.eq_of_toNat_eq (by simpa using hk)
    have hlast : slotNumbers.drop (255 : Byte).toNat = [255] := by
      rw [drop_slotNumbers, List.drop_of_length_le (by simp [slotNumbers])]
    have hsub : subStep (s.goto (.cancelSlots 255)) = .next ((cancelSlot 255 s).goto .disableDone) := by
      rw [subStep, State.goto_main]
      dsimp only
      rw [if_pos rfl, cancelSlot_goto]
      rfl
    rw [mainTurns_succ (by exact hsnap) hsub, hlast, cancelAll_cons, cancelAll_nil]
    rfl
  | succ k ih =>
    have hne : m ≠ 255 := by
      rintro rfl
      have : (255 : Byte).toNat = 255 := rfl
      omega
    have hnext : (m + 1).toNat = m.toNat + 1 := by
      rw [BitVec.toNat_add]
      show (m.toNat + 1) % 256 = m.toNat + 1
      omega
    have hsub : subStep (s.goto (.cancelSlots m)) = .next ((cancelSlot m s).goto (.cancelSlots (m + 1))) := by
      rw [subStep, State.goto_main]
      dsimp only
      rw [if_neg hne, cancelSlot_goto]
      rfl
    rw [mainTurns_succ (by exact hsnap) hsub, ih (by omega) (by rwa [cancelSlot_drain]), hnext, drop_slotNumbers,
      cancelAll_cons]

/-! ## The obligation -/

/-- From slot 0 on, all of them. -/
theorem mainTurns_cancelAllSlots (hsnap : s.drain.cb.isSnap = false) :
    mainTurns 256 (s.goto (.cancelSlots 0)) = .next ((cancelAll slotNumbers s).goto .disableDone) := by
  have h := mainTurns_cancelSlots (m := 0) (k := 255) rfl hsnap
  rwa [show (0 : Byte).toNat = 0 from rfl, List.drop_zero] at h

/-! ## The obligation -/

/-- The state in which the abort of the one busy channel is requested (R157). -/
def abortAwaited (s : State) : State :=
  { s with
    diIrqEnabled := false
    drain := ⟨none, .noCb⟩
    chA := { s.chA with abortReq := s.chA.abortReq || s.chA.busy }
    chB := { s.chB with abortReq := s.chB.abortReq || s.chB.busy }
    main := .abortTest }

/-- The state in which it has landed. -/
def abortLanded (s : State) : State :=
  { s with
    diIrqEnabled := false
    drain := ⟨none, .noCb⟩
    chA := { s.chA with busy := false }
    chB := { s.chB with busy := false }
    main := .abortTest }

/-- The state in which the queues are flushed too. -/
def pipelineFlushed (s : State) : State :=
  { abortLanded s with adc := { s.adc with running := false, fifo := [] }, queue := [] }

/-- Up to the request. -/
theorem disable_until_requested (hm : s.main = .coordEval) (hsnap : s.drain.cb.isSnap = false)
    (hc : s.coord = .active) (he : s.eventsEnabled = false) : mainTurns 4 s = .next (abortAwaited s) := by
  have hnext : coordNext s = .disableIrq := by rw [coordNext, hc, he]
  calc mainTurns 4 s
    _ = mainTurns 3 (s.goto .disableIrq) := by rw [mainTurns_succ hsnap (subStep_coordEval hm), hnext]
    _ = mainTurns 2 { s with diIrqEnabled := false, main := .stopDrain } := mainTurns_succ hsnap rfl
    _ = mainTurns 1 { s with diIrqEnabled := false, drain := ⟨none, .noCb⟩, main := .abortRequest } :=
      mainTurns_succ hsnap rfl
    _ = _ := mainTurns_succ rfl rfl

/-- The request covers the one busy channel, so its landing leaves neither busy. -/
theorem exec_dmaAbortLand_of_awaited {x : Channel} (hreqA : s.chA.abortReq = false) (hreqB : s.chB.abortReq = false)
    (hA : s.chA.busy = (x == .a)) (hB : s.chB.busy = (x == .b)) :
    exec (.dmaAbortLand x) (abortAwaited s) = .next (abortLanded s) := by
  have hchA : s.chA = ⟨x == .a, s.chA.idx, false⟩ := by rw [← hreqA, ← hA]
  have hchB : s.chB = ⟨x == .b, false⟩ := by rw [← hreqB, ← hB]
  rw [abortAwaited, abortLanded, hchA, hchB]
  cases x <;> rfl

/-- From the landing to the slots: the loop's test passes, and the queues are flushed. -/
theorem disable_until_slots (hreqA : s.chA.abortReq = false) (hreqB : s.chB.abortReq = false) (k : Nat) :
    mainTurns (k + 3) (abortLanded s) = mainTurns k ((pipelineFlushed s).goto (.cancelSlots 0)) := by
  have hland : abortsLanded (abortLanded s) = true := (abortsLanded_iff _).2 ⟨⟨rfl, hreqA⟩, rfl, hreqB⟩
  have htest : subStep (abortLanded s) =
    .next ((abortLanded s).goto (if abortsLanded (abortLanded s) then .stopConvert else .abortRequest)) := rfl
  rw [mainTurns_succ rfl htest, if_pos hland, mainTurns_succ rfl rfl, mainTurns_succ rfl rfl]
  rfl

/-- The slots and the last sub-step. -/
theorem disable_from_slots (hsnap : s.drain.cb.isSnap = false) :
    mainTurns 257 (s.goto (.cancelSlots 0)) =
      .next (State.goto { cancelAll slotNumbers s with coord := .inactive } .idle) := by
  have hdrain : (cancelAll slotNumbers s).drain.cb.isSnap = false := by rwa [cancelAll_frame]
  rw [mainTurns_add 256 1, mainTurns_cancelAllSlots hsnap, andThen_next, mainTurns_succ (by exact hdrain) rfl]
  rfl

end

/-- Settles O39: the landing, the flushes, and the fold over the slots. -/
theorem disableTransitionStopsEverything : Obligations.DisableTransitionStopsEverything := by
  unfold Obligations.DisableTransitionStopsEverything
  intro s x hm hsnap hc he hreqA hreqB hA hB
  refine ⟨State.goto { cancelAll slotNumbers (pipelineFlushed s) with coord := .inactive } .idle, ?_, ?_, fun m => ?_, ?_⟩
  · rw [disable_until_requested hm hsnap hc he, andThen_next, exec_dmaAbortLand_of_awaited hreqA hreqB hA hB,
      andThen_next, disable_until_slots hreqA hreqB 257, disable_from_slots rfl]
  · exact out_cancelAll slotNumbers_nodup (pipelineFlushed s)
  · have hslot := slot_cancelAll slotNumbers (pipelineFlushed s) m
    simp only [mem_slotNumbers, true_and] at hslot
    exact hslot
  · rw [cancelAll_frame, ptStop_cancelAll slotNumbers_nodup]
    rfl

end Sys2Proof.Machine

/-! # Trains (40_pulse_train.md R115 to R124, R127)

A fire moves the count and the target by one; so `k` fires do by `k`, until the count or a period of zero ends the train.
A punctual train is its pulses one after another, each a fire, the wait of a width, and an end. -/

namespace Sys2Proof.Machine

/-! ## One fire's count and delay (R115, R117, R119) -/

/-- A positive count is decremented as a number. -/
theorem toInt_sub_one {r : Word} (h : 0 < r.toInt) : (r - 1).toInt = r.toInt - 1 := by
  have hlt := r.isLt
  have hr : r.toInt = r.toNat := by
    rw [BitVec.toInt_eq_toNat_cond] at h ⊢
    split at h <;> omega
  have hsub : (r - 1).toNat = r.toNat - 1 := by
    rw [BitVec.toNat_sub]
    show (2 ^ 32 - 1 + r.toNat) % 2 ^ 32 = r.toNat - 1
    omega
  have hhalf : 2 * r.toNat < 2 ^ 32 := by
    rw [BitVec.toInt_eq_toNat_cond] at h
    split at h <;> omega
  rw [BitVec.toInt_eq_toNat_cond, hsub, if_pos (by omega), hr]
  omega

theorem toInt_countAfterFire (r : Word) :
    (countAfterFire r).toInt = if 0 < r.toInt then r.toInt - 1 else r.toInt := by
  rw [countAfterFire_eq]
  split
  case isTrue h => exact toInt_sub_one h
  case isFalse => rfl

/-- A fire is the last exactly when the period is zero or the count is one. -/
theorem delayAfterFire_eq_zero_iff (p r : Word) : delayAfterFire p r = 0 ↔ p = 0 ∨ r.toInt = 1 := by
  have hlast : (0 < r.toInt ∧ countAfterFire r = 0) ↔ r.toInt = 1 := by
    rw [← BitVec.toInt_inj, toInt_countAfterFire]
    show 0 < r.toInt ∧ _ = (0 : Int) ↔ _
    constructor
    · rintro ⟨hpos, hzero⟩
      rw [if_pos hpos] at hzero
      omega
    · intro hone
      rw [if_pos (by omega)]
      omega
  have hperiod : 0 - durationOf p = 0 ↔ p = 0 := by
    rw [← durationOf_eq_zero]
    simp
  rw [delayAfterFire_eq]
  simp only [hlast]
  split
  case isTrue h => simp [h]
  case isFalse h => rw [hperiod, or_iff_left h]

section
variable {s t : State} {m : Byte} {target : Time}

/-- What a due fire does to its slot. -/
theorem exec_ptFire_slot (hp : (s.slot m).periodic = some target) (hdue : target ≤ s.now) (hcb : s.drain.cb = .noCb) :
    ∃ t, exec (.ptFire m) s = .next t ∧ t.slot m = (s.slot m).fired s.now target ∧ t.now = s.now ∧
      t.drain = s.drain := by
  refine ⟨_, exec_ptFire_of_due hp hdue hcb, ?_, rfl, rfl⟩
  rw [State.slot_notify, State.slot_of_poolWith rfl, if_pos rfl]

theorem fired_last {x : Slot} {now : Time} (h : x.periodUs = 0 ∨ x.remaining.toInt = 1) :
    (x.fired now target).periodic = none ∧ (x.fired now target).nextDelay = 0 := by
  have hzero := (delayAfterFire_eq_zero_iff x.periodUs x.remaining).2 h
  exact ⟨by rw [Slot.fired, hzero]; rfl, hzero⟩

theorem fired_more {x : Slot} {now : Time} (hp : x.periodUs ≠ 0) (hr : x.remaining.toInt ≠ 1) :
    (x.fired now target).periodic = some (target + durationOf x.periodUs) := by
  have hne : delayAfterFire x.periodUs x.remaining ≠ 0 := by
    rw [ne_eq, delayAfterFire_eq_zero_iff, not_or]
    exact ⟨hp, hr⟩
  rw [Slot.fired, nextTarget_delayAfterFire, if_pos hne]

/-! ## Several fires (R117, R118) -/

theorem toNat_durationOf (p : Word) : (durationOf p).toNat = p.toNat := BitVec.toNat_setWidth_of_le (by decide)

theorem durationOf_eq_ofNat (p : Word) : durationOf p = BitVec.ofNat 64 p.toNat := by
  apply BitVec.eq_of_toNat_eq
  rw [toNat_durationOf, BitVec.toNat_ofNat, Nat.mod_eq_of_lt (p.isLt.trans (by decide))]

/-- One period on, then `k` more, is `k + 1` periods on, modulo 2^64 (R13 (c)). -/
theorem add_durationOf_add (target : Time) (p : Word) (k : Nat) :
    target + durationOf p + BitVec.ofNat 64 (k * p.toNat) = target + BitVec.ofNat 64 ((k + 1) * p.toNat) := by
  rw [durationOf_eq_ofNat, BitVec.add_assoc, ← BitVec.ofNat_add, Nat.succ_mul, Nat.add_comm p.toNat]

theorem toNat_add_le (a b : Time) : (a + b).toNat ≤ a.toNat + b.toNat := by
  rw [BitVec.toNat_add]
  exact Nat.mod_le ..

/-- `k` fires, each due, none of them the last. -/
theorem execAll_fires {k : Nat} (hp : (s.slot m).periodic = some target) (hcb : s.drain.cb = .noCb)
    (hperiod : (s.slot m).periodUs ≠ 0)
    (hdue : 0 < k → target.toNat + (k - 1) * (s.slot m).periodUs.toNat ≤ s.now.toNat)
    (hmore : (s.slot m).remaining.toInt ≤ 0 ∨ (k : Int) < (s.slot m).remaining.toInt) :
    ∃ t, execAll (List.replicate k (.ptFire m)) s = .next t ∧
      (t.slot m).periodic = some (target + BitVec.ofNat 64 (k * (s.slot m).periodUs.toNat)) ∧
      (t.slot m).remaining.toInt =
        (if 0 < (s.slot m).remaining.toInt then (s.slot m).remaining.toInt - k else (s.slot m).remaining.toInt) ∧
      (t.slot m).periodUs = (s.slot m).periodUs ∧ t.now = s.now ∧ t.drain = s.drain := by
  induction k generalizing s target with
  | zero => exact ⟨s, rfl, by simpa using hp, by simp, rfl, rfl, rfl⟩
  | succ k ih =>
    obtain ⟨u, hfire, hslot, hnow, hdrain⟩ := exec_ptFire_slot hp
      (by rw [BitVec.le_def]; exact (Nat.le_add_right ..).trans (hdue (Nat.succ_pos k))) hcb
    have hcount : (u.slot m).remaining.toInt =
        if 0 < (s.slot m).remaining.toInt then (s.slot m).remaining.toInt - 1 else (s.slot m).remaining.toInt := by
      rw [hslot]
      exact toInt_countAfterFire _
    have hsame : (u.slot m).periodUs = (s.slot m).periodUs := by rw [hslot]; rfl
    have hnext : (u.slot m).periodic = some (target + durationOf (s.slot m).periodUs) := by
      rw [hslot]
      exact fired_more hperiod (by push_cast at hmore; omega)
    have hlater (hk : 0 < k) :
        (target + durationOf (s.slot m).periodUs).toNat + (k - 1) * (u.slot m).periodUs.toNat ≤ u.now.toNat := by
      have hle := toNat_add_le target (durationOf (s.slot m).periodUs)
      rw [toNat_durationOf] at hle
      obtain ⟨j, rfl⟩ : ∃ j, k = j + 1 := Nat.exists_eq_succ_of_ne_zero hk.ne'
      have hall := hdue (Nat.succ_pos _)
      rw [hsame, hnow]
      rw [Nat.add_sub_cancel] at hall ⊢
      rw [Nat.succ_mul] at hall
      omega
    obtain ⟨t, hrun, hperiodic, hremaining, hperiodUs, htnow, htdrain⟩ :=
      ih hnext (hdrain ▸ hcb) (hsame ▸ hperiod) hlater (by rw [hcount]; push_cast at hmore; split_ifs <;> omega)
    refine ⟨t, ?_, ?_, ?_, hperiodUs.trans hsame, htnow.trans hnow, htdrain.trans hdrain⟩
    · rw [List.replicate_succ, execAll, hfire, andThen_next, hrun]
    · rw [hperiodic, hsame, add_durationOf_add]
    · rw [hremaining, hcount]
      push_cast at hmore ⊢
      split_ifs <;> omega

end

/-- Settles O21: the fires before the last by induction, the last by its sentinel. -/
theorem firesAreCountedAndDoNotDrift : Obligations.FiresAreCountedAndDoNotDrift := by
  unfold Obligations.FiresAreCountedAndDoNotDrift
  intro s m target k hp hcb hperiod hdue
  refine ⟨fun hforever => ?_, fun hpos hmore => ?_, fun hpos hlast => ?_⟩
  · obtain ⟨t, hrun, hperiodic, hcount, -, hnow, -⟩ := execAll_fires hp hcb hperiod hdue (.inl hforever)
    rw [if_neg (by omega)] at hcount
    exact ⟨t, hrun, hperiodic, BitVec.eq_of_toInt_eq hcount, hnow⟩
  · obtain ⟨t, hrun, hperiodic, hcount, -, hnow, -⟩ := execAll_fires hp hcb hperiod hdue (.inr hmore)
    rw [if_pos hpos] at hcount
    exact ⟨t, hrun, hperiodic, hcount, hnow⟩
  · obtain ⟨j, rfl⟩ : ∃ j, k = j + 1 := Nat.exists_eq_succ_of_ne_zero (by omega)
    have hdue := hdue (Nat.succ_pos j)
    rw [Nat.add_sub_cancel] at hdue
    obtain ⟨u, hrun, hperiodic, hcount, -, hnow, hdrain⟩ := execAll_fires (k := j) hp hcb hperiod
      (fun hj => by
        have := Nat.mul_le_mul_right (s.slot m).periodUs.toNat (Nat.sub_le j 1)
        omega)
      (.inr (by omega))
    rw [if_pos hpos] at hcount
    have hone : (u.slot m).remaining.toInt = 1 := by push_cast at hlast; omega
    have hle := toNat_add_le target (BitVec.ofNat 64 (j * (s.slot m).periodUs.toNat))
    have hmod : (BitVec.ofNat 64 (j * (s.slot m).periodUs.toNat)).toNat ≤ j * (s.slot m).periodUs.toNat :=
      Nat.mod_le ..
    obtain ⟨t, hfire, hslot, htnow, -⟩ :=
      exec_ptFire_slot hperiodic (by rw [BitVec.le_def, hnow]; omega) (hdrain ▸ hcb)
    refine ⟨t, ?_, ?_, ?_, ?_, htnow.trans hnow⟩
    · rw [List.replicate_succ', execAll_append, hrun, andThen_next, execAll, hfire, andThen_next]
      rfl
    · rw [hslot]
      exact (fired_last (.inr hone)).1
    · rw [hslot]
      exact (fired_last (.inr hone)).2
    · rw [hslot]
      apply BitVec.eq_of_toInt_eq
      rw [Slot.fired, toInt_countAfterFire, hone]
      rfl

/-- Settles O22: a period of zero is the sentinel, which the end alarm finds. -/
theorem periodZeroMakesOnePulse : Obligations.PeriodZeroMakesOnePulse := by
  unfold Obligations.PeriodZeroMakesOnePulse
  intro s m target hp hdue hcb hperiod
  obtain ⟨t, hfire, hslot, -, -⟩ := exec_ptFire_slot hp hdue hcb
  obtain ⟨hnone, hsentinel⟩ := fired_last (x := s.slot m) (target := target) (now := s.now) (.inl hperiod)
  refine ⟨t, hfire, hslot ▸ hnone, hslot ▸ hsentinel, by rw [hslot]; rfl, by rw [hslot]; exact countAfterFire_eq _, ?_⟩
  intro u alarm rest hslots hends hdue hcb
  have husame : u.slot m = (s.slot m).fired s.now target := (State.slot_congr hslots m).trans hslot
  have hmask : (u.slot m).outputMask = (s.slot m).outputMask := by rw [husame]; rfl
  have hlast : stopSentinel (u.slot m) = true := decide_eq_true (husame ▸ hsentinel)
  have hend := exec_ptEnd_of_due hends hdue hcb
  rw [if_pos hlast, completeTrain_endPulse, hmask] at hend
  refine ⟨_, hend, ?_⟩
  rw [State.slot_of_poolWith rfl, if_pos rfl]
  exact ⟨rfl, rfl, rfl, rfl⟩

end Sys2Proof.Machine

/-! # A punctual train (40_pulse_train.md R120, R124, R127, 60_exceptions.md R258)

What the two callbacks and the passing of time leave for one slot, the others left alone; then one pulse, then the
pulses by induction on the count. -/

namespace Sys2Proof.Machine

/-! ## The slot of a train -/

/-- The slot of a train of `n` pulses still to come, the next one scheduled at `now`. -/
def trainSlot (m : Byte) (w p : Word) (n : Nat) (delay now : Time) : Slot where
  outputMask := m
  widthUs := w
  periodUs := p
  remaining := BitVec.ofNat 32 n
  active := true
  periodic := some now
  nextDelay := delay
  ends := []

/-- The slot of a train in its pulse: the end alarm armed, and the next fire, if `next` says that there is one. -/
def pulseSlot (m : Byte) (w p : Word) (n : Nat) (delay alarm : Time) (next : Option Time) : Slot where
  outputMask := m
  widthUs := w
  periodUs := p
  remaining := BitVec.ofNat 32 n
  active := true
  periodic := next
  nextDelay := delay
  ends := [alarm]

section
variable {m : Byte} {w p : Word} {n : Nat} {delay now : Time}

theorem toInt_ofNat_count (hn : n < 2 ^ 31) : (BitVec.ofNat 32 n).toInt = n := by
  rw [BitVec.toInt_eq_toNat_of_lt] <;> rw [BitVec.toNat_ofNat, Nat.mod_eq_of_lt (by omega)]
  omega

theorem countAfterFire_ofNat (hn : n + 1 < 2 ^ 31) : countAfterFire (BitVec.ofNat 32 (n + 1)) = BitVec.ofNat 32 n := by
  apply BitVec.eq_of_toInt_eq
  rw [toInt_countAfterFire, toInt_ofNat_count hn, toInt_ofNat_count (by omega), if_pos (by omega)]
  omega

theorem fired_trainSlot_last :
    (trainSlot m w p 1 delay now).fired now now = pulseSlot m w p 0 0 (now + durationOf w) none := by
  obtain ⟨hperiodic, hdelay⟩ := fired_last (x := trainSlot m w p 1 delay now) (now := now) (target := now) (.inr rfl)
  have hcount : countAfterFire (BitVec.ofNat 32 1) = BitVec.ofNat 32 0 := countAfterFire_ofNat (by decide)
  simp only [Slot.fired, trainSlot, List.nil_append] at hperiodic hdelay ⊢
  rw [hperiodic, hdelay, hcount]
  rfl

theorem fired_trainSlot_more (hn : n + 2 < 2 ^ 31) (hp : p ≠ 0) :
    ∃ next, next ≠ 0 ∧ (trainSlot m w p (n + 2) delay now).fired now now =
      pulseSlot m w p (n + 1) next (now + durationOf w) (some (now + durationOf p)) := by
  have hone : (BitVec.ofNat 32 (n + 2)).toInt ≠ 1 := by rw [toInt_ofNat_count hn]; omega
  have hperiodic := fired_more (x := trainSlot m w p (n + 2) delay now) (now := now) (target := now) hp hone
  have hcount : countAfterFire (BitVec.ofNat 32 (n + 2)) = BitVec.ofNat 32 (n + 1) := countAfterFire_ofNat hn
  refine ⟨delayAfterFire p (BitVec.ofNat 32 (n + 2)), ?_, ?_⟩
  · rw [ne_eq, delayAfterFire_eq_zero_iff, not_or]
    exact ⟨hp, hone⟩
  · simp only [Slot.fired, trainSlot, List.nil_append] at hperiodic ⊢
    rw [hperiodic, hcount]
    rfl

end

/-! ## Steps that leave the other slots alone -/

/-- Only slot `m`, the time, the pins and their fields, and the output differ. -/
structure OnlySlot (m : Byte) (s t : State) : Prop where
  cfg : t.cfg = s.cfg
  drain : t.drain = s.drain
  others : ∀ l, l ≠ m → t.slot l = s.slot l

/-- The alarms of the other slots and of the drain timer leave time free to pass up to `deadline` (R258). -/
def OthersWait (m : Byte) (deadline : Nat) (s : State) : Prop :=
  ∀ j, s.cfg.jitterMaxUs = some j →
    ∀ a : Time, ((∃ l : Byte, l ≠ m ∧ ((s.slot l).periodic = some a ∨ a ∈ (s.slot l).ends)) ∨
        s.drain.target = some a) → deadline ≤ a.toNat + j

section
variable {s t u : State} {m : Byte} {deadline : Nat}

theorem OnlySlot.trans (h : OnlySlot m s t) (h' : OnlySlot m t u) : OnlySlot m s u :=
  ⟨h'.cfg.trans h.cfg, h'.drain.trans h.drain, fun l hl => (h'.others l hl).trans (h.others l hl)⟩

theorem OnlySlot.of_poolWith {y : Slot} (hcfg : t.cfg = s.cfg) (hdrain : t.drain = s.drain)
    (hslots : t.slots = s.poolWith m y) : OnlySlot m s t :=
  ⟨hcfg, hdrain, fun l hl => by rw [State.slot_of_poolWith hslots, if_neg hl]⟩

theorem OthersWait.of_onlySlot (h : OthersWait m deadline s) (hst : OnlySlot m s t) : OthersWait m deadline t := by
  intro j hj a ha
  refine h j (hst.cfg ▸ hj) a (ha.imp (fun ⟨l, hl, halarm⟩ => ⟨l, hl, ?_⟩) fun hd => hst.drain ▸ hd)
  rwa [hst.others l hl] at halarm

theorem OthersWait.mono {sooner : Nat} (h : OthersWait m deadline s) (hle : sooner ≤ deadline) :
    OthersWait m sooner s := fun j hj a ha => hle.trans (h j hj a ha)

/-- A due fire. -/
theorem exec_fire {x : Slot} {now : Time} (hx : s.slot m = x) (hnow : s.now = now) (hp : x.periodic = some now)
    (hcb : s.drain.cb = .noCb) :
    ∃ t, exec (.ptFire m) s = .next t ∧ OnlySlot m s t ∧ t.slot m = x.fired now now ∧ t.now = now ∧
      t.doPins = s.doPins ||| x.outputMask ∧ t.out = s.out ++ [.event .doSet now (.byte x.outputMask)] := by
  subst hx hnow
  refine ⟨_, exec_ptFire_of_due hp (BitVec.le_refl _) hcb, .of_poolWith rfl rfl rfl, ?_, rfl, rfl, rfl⟩
  rw [State.slot_notify, State.slot_of_poolWith rfl, if_pos rfl]

/-- A due end of a pulse that is not the last. -/
theorem exec_end_more {w p : Word} {n : Nat} {delay now : Time} {next : Option Time}
    (hx : s.slot m = pulseSlot m w p n delay now next) (hnow : s.now = now) (hdelay : delay ≠ 0)
    (hcb : s.drain.cb = .noCb) :
    ∃ t, exec (.ptEnd m) s = .next t ∧ OnlySlot m s t ∧
      t.slot m = { pulseSlot m w p n delay now next with ends := [] } ∧ t.now = now ∧
      t.doPins = s.doPins &&& ~~~m ∧ t.out = s.out ++ [.event .doClear now (.byte m)] := by
  subst hnow
  have hend := exec_ptEnd_of_due (m := m) (target := s.now) (rest := []) (by rw [hx]; rfl) (BitVec.le_refl _) hcb
  rw [if_neg (by rw [hx]; exact mt of_decide_eq_true hdelay)] at hend
  refine ⟨_, hend, .of_poolWith rfl rfl rfl, ?_, rfl, ?_, ?_⟩
  · rw [slot_endPulse, hx]
  · rw [endPulse, hx]
    rfl
  · rw [endPulse, hx]
    rfl

/-- A due end of the last pulse. -/
theorem exec_end_last {w p : Word} {n : Nat} {now : Time} {next : Option Time}
    (hx : s.slot m = pulseSlot m w p n 0 now next) (hnow : s.now = now) (hcb : s.drain.cb = .noCb) :
    ∃ t, exec (.ptEnd m) s = .next t ∧ (t.slot m).active = false ∧ t.doPins = s.doPins &&& ~~~m ∧
      t.out = s.out ++ [.event .doClear now (.byte m), .event .ptStop now (.byte m)] := by
  subst hnow
  have hend := exec_ptEnd_of_due (m := m) (target := s.now) (rest := []) (by rw [hx]; rfl) (BitVec.le_refl _) hcb
  rw [if_pos (by rw [hx]; rfl), completeTrain_endPulse, hx] at hend
  refine ⟨_, hend, ?_, rfl, rfl⟩
  rw [State.slot_of_poolWith rfl, if_pos rfl]
  rfl

/-- Time passes where slot `m` and the others let it. -/
theorem exec_tick {delta : Time} (hpos : delta ≠ 0) (hfits : s.now.toNat + delta.toNat < 2 ^ 64)
    (hown : ∀ a : Time, (s.slot m).periodic = some a ∨ a ∈ (s.slot m).ends → s.now.toNat + delta.toNat ≤ a.toNat)
    (hothers : OthersWait m (s.now.toNat + delta.toNat) s) :
    exec (.tickTime delta) s = .next { s with now := s.now + delta } := by
  refine guarded_of_true ((timeMayAdvance_iff s delta).2 ⟨hpos, hfits, fun j hj _ a ha => ?_⟩)
    (fun u => { u with now := u.now + delta }) s
  rcases (mem_armedTargets s a).1 ha with ⟨l, hl⟩ | hd
  · by_cases hlm : l = m
    · exact (hown a (hlm ▸ hl)).trans (Nat.le_add_right ..)
    · exact hothers j hj a (.inl ⟨l, hlm, hl⟩)
  · exact hothers j hj a (.inr hd)

/-! ## One pulse -/

/-- The fire and the wait of the width. -/
theorem execAll_fire_width {x : Slot} {w : Word} {now : Time} (hx : s.slot m = x) (hnow : s.now = now)
    (hp : x.periodic = some now) (hcb : s.drain.cb = .noCb) (hfits : now.toNat + w.toNat < 2 ^ 64)
    (hown : ∀ a : Time, (x.fired now now).periodic = some a ∨ a ∈ (x.fired now now).ends →
      now.toNat + w.toNat ≤ a.toNat)
    (hothers : OthersWait m (now.toNat + w.toNat) s) :
    ∃ t, execAll (.ptFire m :: widthWait w) s = .next t ∧ OnlySlot m s t ∧ t.slot m = x.fired now now ∧
      t.now = now + durationOf w ∧ t.doPins = s.doPins ||| x.outputMask ∧
      t.out = s.out ++ [.event .doSet now (.byte x.outputMask)] := by
  obtain ⟨u, hfire, honly, hslot, hunow, hpins, hout⟩ := exec_fire hx hnow hp hcb
  unfold widthWait
  split
  case isTrue hw =>
    subst hw
    refine ⟨u, ?_, honly, hslot, ?_, hpins, hout⟩
    · rw [execAll, hfire]
      rfl
    · rw [hunow, (durationOf_eq_zero 0).2 rfl]
      exact (BitVec.add_zero now).symm
  case isFalse hw =>
    have hwidth : (BitVec.setWidth 64 w).toNat = w.toNat := toNat_durationOf w
    have htick := exec_tick (s := u) (m := m) (delta := BitVec.setWidth 64 w) (mt (durationOf_eq_zero w).1 hw)
      (by rwa [hwidth, hunow]) (by rwa [hwidth, hunow, hslot]) (by rw [hwidth, hunow]; exact hothers.of_onlySlot honly)
    refine ⟨{ u with now := u.now + BitVec.setWidth 64 w }, ?_, honly.trans ⟨rfl, rfl, fun _ _ => rfl⟩, hslot, ?_,
      hpins, hout⟩
    · rw [execAll, hfire, andThen_next, execAll, htick]
      rfl
    · rw [← hunow]
      rfl

end

/-! ## The pulses -/

theorem onePulseOps_eq (m : Byte) (w : Word) : onePulseOps m w = (.ptFire m :: widthWait w) ++ [.ptEnd m] := rfl

theorem pulseOps_succ (m : Byte) (w p : Word) (n : Nat) :
    pulseOps m w p (n + 2) =
      onePulseOps m w ++ .tickTime (BitVec.setWidth 64 p - BitVec.setWidth 64 w) :: pulseOps m w p (n + 1) := rfl

theorem setPins_clearPins (pins m : Byte) : (pins ||| m) &&& ~~~m = pins &&& ~~~m := by
  apply BitVec.eq_of_getLsbD_eq
  intro i hi
  simp only [BitVec.getLsbD_and, BitVec.getLsbD_or, BitVec.getLsbD_not]
  grind

theorem clearPins_clearPins (pins m : Byte) : (pins &&& ~~~m) &&& ~~~m = pins &&& ~~~m := by
  rw [BitVec.and_assoc, BitVec.and_self]

section
variable {s : State} {m : Byte} {w p : Word} {n : Nat} {delay now : Time}

/-- The last pulse completes the train. -/
theorem execAll_last_pulse (hx : s.slot m = trainSlot m w p 1 delay now) (hnow : s.now = now)
    (hcb : s.drain.cb = .noCb) (hfits : now.toNat + w.toNat < 2 ^ 64)
    (hothers : OthersWait m (now.toNat + w.toNat) s) :
    ∃ t, execAll (onePulseOps m w) s = .next t ∧
      t.out = s.out ++ pulseEvents m now w ++ [.event .ptStop (now + durationOf w) (.byte m)] ∧
      (t.slot m).active = false ∧ t.doPins = s.doPins &&& ~~~m := by
  have halarm : (now + durationOf w).toNat = now.toNat + w.toNat := by
    rw [BitVec.toNat_add, toNat_durationOf, Nat.mod_eq_of_lt hfits]
  obtain ⟨u, hfire, honly, hslot, hunow, hpins, hout⟩ := execAll_fire_width (w := w) hx hnow rfl hcb hfits
    (by
      rw [fired_trainSlot_last]
      rintro a (ha | ha)
      · cases ha
      · rw [List.mem_singleton.1 ha, halarm]) hothers
  rw [fired_trainSlot_last] at hslot
  obtain ⟨t, hend, hidle, htpins, htout⟩ := exec_end_last hslot hunow (honly.drain ▸ hcb)
  refine ⟨t, ?_, ?_, hidle, ?_⟩
  · rw [onePulseOps_eq, execAll_append, hfire, andThen_next, execAll, hend]
    rfl
  · rw [htout, hout]
    simp [pulseEvents, trainSlot, durationOf]
  · rw [htpins, hpins]
    exact setPins_clearPins _ _

/-- An earlier pulse, with the wait for the next start, leaves the train one pulse shorter, a period later. -/
theorem execAll_earlier_pulse (hx : s.slot m = trainSlot m w p (n + 2) delay now) (hnow : s.now = now)
    (hcb : s.drain.cb = .noCb) (hn : n + 2 < 2 ^ 31) (hwp : w.toNat < p.toNat)
    (hfits : now.toNat + p.toNat < 2 ^ 64) (hothers : OthersWait m (now.toNat + p.toNat) s) :
    ∃ t delay', execAll (onePulseOps m w ++ [.tickTime (BitVec.setWidth 64 p - BitVec.setWidth 64 w)]) s = .next t ∧
      OnlySlot m s t ∧ t.slot m = trainSlot m w p (n + 1) delay' (now + durationOf p) ∧ t.now = now + durationOf p ∧
      t.out = s.out ++ pulseEvents m now w ∧ t.doPins = s.doPins &&& ~~~m := by
  have hp : p ≠ 0 := by
    rintro rfl
    exact absurd hwp (Nat.not_lt_zero _)
  have halarm : (now + durationOf w).toNat = now.toNat + w.toNat := by
    rw [BitVec.toNat_add, toNat_durationOf, Nat.mod_eq_of_lt (by omega)]
  have hnext : (now + durationOf p).toNat = now.toNat + p.toNat := by
    rw [BitVec.toNat_add, toNat_durationOf, Nat.mod_eq_of_lt hfits]
  obtain ⟨delay', hdelay, hfired⟩ := fired_trainSlot_more (m := m) (w := w) (delay := delay) (now := now) hn hp
  obtain ⟨u, hfire, honly, hslot, hunow, hpins, hout⟩ := execAll_fire_width (w := w) hx hnow rfl hcb (by omega)
    (by
      rw [hfired]
      rintro a (ha | ha)
      · cases ha
        omega
      · rw [List.mem_singleton.1 ha, halarm]) (hothers.mono (by omega))
  rw [hfired] at hslot
  obtain ⟨v, hend, honly', hvslot, hvnow, hvpins, hvout⟩ := exec_end_more hslot hunow hdelay (honly.drain ▸ hcb)
  have honly := honly.trans honly'
  have hgap : (BitVec.setWidth 64 p - BitVec.setWidth 64 w).toNat = p.toNat - w.toNat := by
    rw [BitVec.toNat_sub_of_le, BitVec.toNat_setWidth_of_le (by decide), BitVec.toNat_setWidth_of_le (by decide)]
    rw [BitVec.le_def, BitVec.toNat_setWidth_of_le (by decide), BitVec.toNat_setWidth_of_le (by decide)]
    exact hwp.le
  have hsum : v.now.toNat + (BitVec.setWidth 64 p - BitVec.setWidth 64 w).toNat = now.toNat + p.toNat := by
    rw [hgap, hvnow, halarm]
    omega
  have htick := exec_tick (s := v) (m := m) (delta := BitVec.setWidth 64 p - BitVec.setWidth 64 w)
    (fun hzero => by rw [hzero] at hgap; simp at hgap; omega) (by rwa [hsum])
    (by
      rw [hsum, hvslot]
      rintro a (ha | ha)
      · cases ha
        exact hnext.ge
      · cases ha) (by rw [hsum]; exact hothers.of_onlySlot honly)
  have htnow : v.now + (BitVec.setWidth 64 p - BitVec.setWidth 64 w) = now + durationOf p := by
    apply BitVec.eq_of_toNat_eq
    rw [BitVec.toNat_add, hsum, Nat.mod_eq_of_lt hfits, hnext]
  refine ⟨{ v with now := v.now + (BitVec.setWidth 64 p - BitVec.setWidth 64 w) }, delay', ?_, honly.trans ⟨rfl, rfl, fun _ _ => rfl⟩, hvslot, htnow, ?_, ?_⟩
  · rw [onePulseOps_eq, execAll_append, execAll_append, hfire, andThen_next, execAll, hend, andThen_next, execAll,
      andThen_next, execAll, htick]
    rfl
  · show v.out = _
    rw [hvout, hout]
    simp [pulseEvents, trainSlot, durationOf]
  · show v.doPins = _
    rw [hvpins, hpins]
    exact setPins_clearPins _ _

/-- The events of `n + 1` pulses are those of the first and of the `n` that follow a period later. -/
theorem flatMap_pulseEvents_succ (m : Byte) (w p : Word) (now : Time) (n : Nat) :
    (List.range (n + 1)).flatMap (fun k => pulseEvents m (now + BitVec.ofNat 64 (k * p.toNat)) w) =
      pulseEvents m now w ++
        (List.range n).flatMap fun k => pulseEvents m (now + durationOf p + BitVec.ofNat 64 (k * p.toNat)) w := by
  rw [List.range_succ_eq_map, List.flatMap_cons, List.flatMap_map]
  simp only [add_durationOf_add, Nat.zero_mul]
  rw [show BitVec.ofNat 64 0 = 0 from rfl, show now + 0 = now from BitVec.add_zero now]

/-- The whole train, by induction on the pulses after this one. -/
theorem execAll_pulseOps (hx : s.slot m = trainSlot m w p (n + 1) delay now) (hnow : s.now = now)
    (hcb : s.drain.cb = .noCb) (hn : n + 1 < 2 ^ 31) (hwp : w.toNat < p.toNat)
    (hfits : now.toNat + (n + 1) * p.toNat < 2 ^ 64) (hothers : OthersWait m (now.toNat + (n + 1) * p.toNat) s) :
    ∃ t, execAll (pulseOps m w p (n + 1)) s = .next t ∧
      t.out = s.out ++
        (List.range (n + 1)).flatMap (fun k => pulseEvents m (now + BitVec.ofNat 64 (k * p.toNat)) w) ++
        [.event .ptStop (now + BitVec.ofNat 64 (n * p.toNat + w.toNat)) (.byte m)] ∧
      (t.slot m).active = false ∧ t.doPins = s.doPins &&& ~~~m := by
  induction n generalizing s delay now with
  | zero =>
    obtain ⟨t, hrun, hout, hidle, hpins⟩ := execAll_last_pulse hx hnow hcb (by omega) (hothers.mono (by omega))
    refine ⟨t, hrun, ?_, hidle, hpins⟩
    rw [hout, flatMap_pulseEvents_succ, durationOf_eq_ofNat w, Nat.zero_mul, Nat.zero_add]
    simp
  | succ n ih =>
    rw [Nat.succ_mul] at hfits hothers
    obtain ⟨u, delay', hpulse, honly, hslot, hunow, hout, hpins⟩ :=
      execAll_earlier_pulse hx hnow hcb hn hwp (by omega) (hothers.mono (by omega))
    have hnext : (now + durationOf p).toNat = now.toNat + p.toNat := by
      rw [BitVec.toNat_add, toNat_durationOf, Nat.mod_eq_of_lt (by omega)]
    obtain ⟨t, hrun, htout, hidle, htpins⟩ := ih hslot hunow (honly.drain ▸ hcb) (by omega) (by omega)
      ((hothers.of_onlySlot honly).mono (by omega))
    refine ⟨t, ?_, ?_, hidle, ?_⟩
    · rw [pulseOps_succ, ← List.singleton_append, ← List.append_assoc, execAll_append, hpulse, andThen_next, hrun]
    · rw [htout, hout, flatMap_pulseEvents_succ m w p now (n + 1), durationOf_eq_ofNat p, BitVec.add_assoc,
        ← BitVec.ofNat_add, Nat.succ_mul, ← Nat.add_assoc, Nat.add_comm p.toNat]
      simp only [List.append_assoc]
    · rw [htpins, hpins, clearPins_clearPins]

end

/-- Settles O23: `armSlot` arms the slot of a train of `n` pulses, which then run one by one. -/
theorem trainEventsAlternate : Obligations.TrainEventsAlternate := by
  unfold Obligations.TrainEventsAlternate
  intro s m w p n hpos hn hwp hfits hcb hothers
  obtain ⟨j, rfl⟩ : ∃ j, n = j + 1 := Nat.exists_eq_succ_of_ne_zero hpos.ne'
  have harmed : (armSlot m w p (BitVec.ofNat 32 (j + 1)) s).slot m = trainSlot m w p (j + 1) 0 s.now := by
    rw [slot_armSlot, if_pos rfl]
    rfl
  have honly : OnlySlot m s (armSlot m w p (BitVec.ofNat 32 (j + 1)) s) :=
    ⟨rfl, rfl, fun l hl => by rw [slot_armSlot, if_neg hl]⟩
  exact execAll_pulseOps harmed rfl hcb hn hwp hfits (OthersWait.of_onlySlot hothers honly)

end Sys2Proof.Machine
